-- ==== Sys2Proof/Word.lean ====
section
/-! DEFINITION. The widths of the block and the notation of `00_scope.md` rules R5 and R7. -/

namespace Sys2Proof

/-- One of the 66 (33) bytes of a serialised request (response), `20_memory.md` R42. -/
abbrev Byte := BitVec 8

/-- A half-limb, 64 bits (`HALF`, R5, R13). -/
abbrev Half := BitVec 64

/-- A limb, 128 bits (`LIMB`, R5, R12). -/
abbrev Limb := BitVec 128

/-- A double-width value, 256 bits (`DW`, R5, R12). -/
abbrev Double := BitVec 256

/-- `U(v)`: the unsigned integer value of `v` (R7). -/
abbrev U {n : Nat} (v : BitVec n) : Nat := v.toNat

/-- `S(v)`: the two's-complement signed value of `v` (R7). -/
abbrev S {n : Nat} (v : BitVec n) : Int := v.toInt

/-- `bv_N(i)`: the N-bit vector whose unsigned value is `i mod 2^N` (R7). -/
abbrev bv (n : Nat) (i : Int) : BitVec n := BitVec.ofInt n i

end Sys2Proof
end

