-- ==== Sys2Proof/Syntax.lean ====
section
/-! DEFINITION. The twelve instructions, one constructor per row of `spec/opcode_table.json`. -/

namespace Sys2Proof

/-- An instruction of the block: the operation that a legal request asks for, with the request
fields it reads (`30_encoding.md` R50, R53, R54). A field the operation ignores is no argument
(log 8). A pair `aHi aLo` is operand `A`, a pair `bHi bLo` operand `B`. The shift count `sh` is a
number, "0 to 255, with no scaling and no sign extension" (R52; log 10). -/
inductive Instr where
  /-- Widening multiply, unsigned (`40_widening_multiply.md` R70). -/
  | mulu (aLo bLo : Limb)
  /-- Widening multiply, signed (R71). -/
  | muls (aLo bLo : Limb)
  /-- Narrowing divide, unsigned: dividend `A`, divisor `B_LO` (`41_narrowing_divide.md` R80). -/
  | divu (aHi aLo bLo : Limb)
  /-- Narrowing divide, signed (R81). -/
  | divs (aHi aLo bLo : Limb)
  /-- Logical shift right of 256 bits (`42_shift.md` R90). -/
  | shru (aHi aLo : Limb) (sh : Nat)
  /-- Arithmetic shift right of 256 bits (R91). -/
  | shrs (aHi aLo : Limb) (sh : Nat)
  /-- Shift left and narrow to 128 bits, unsigned (R93). -/
  | shlnu (aHi aLo : Limb) (sh : Nat)
  /-- Shift left and narrow to 128 bits, signed (R94). -/
  | shlns (aHi aLo : Limb) (sh : Nat)
  /-- 256-bit add with carry-out (`43_add_sub_neg_sext.md` R100). -/
  | add (aHi aLo bHi bLo : Limb)
  /-- 256-bit subtract with borrow-out (R101). -/
  | sub (aHi aLo bHi bLo : Limb)
  /-- 256-bit wrapping negate (R102). -/
  | neg (aHi aLo : Limb)
  /-- Sign-extend 128 bits to 256 (R103). -/
  | sext (aLo : Limb)
  deriving DecidableEq, Repr

end Sys2Proof
end

