-- ==== Sys2Proof/Decode.lean ====
section
/-! DEFINITION. Requests, their packed and serialised forms, the decoder (total, rejecting by
name) and, after it, the encoder (`30_encoding.md` R50 to R57, R62; `20_memory.md` R42). -/

namespace Sys2Proof

/-- A request: the five fields of R50, all presented together (`20_memory.md` R44). -/
structure Request where
  ctrl : BitVec 16
  aLo : Limb
  aHi : Limb
  bLo : Limb
  bHi : Limb
  deriving DecidableEq, Repr

/-! ### The control word, R51 -/

/-- `OP`, bits 3:0. -/
def ctrlOp (c : BitVec 16) : BitVec 4 := c.extractLsb' 0 4

/-- `RSV`, bits 7:4. -/
def ctrlRsv (c : BitVec 16) : BitVec 4 := c.extractLsb' 4 4

/-- `SH`, bits 15:8. -/
def ctrlSh (c : BitVec 16) : BitVec 8 := c.extractLsb' 8 8

/-- `CTRL = SH ∥ RSV ∥ OP` with `RSV = 0000` (R51). -/
def mkCtrl (sh : Nat) (op : BitVec 4) : BitVec 16 := BitVec.ofNat 8 sh ++ 0#4 ++ op

/-! ### Decode, R55 and R62 -/

/-- Why a request (or a list of bytes) is not an instruction. The hardware gives every illegal
request the same response (R124); the names are the model's (log 13). -/
inductive DecodeError where
  /-- `CTRL[7:4]` is not 0000 (R55). -/
  | reservedBits (rsv : BitVec 4)
  /-- `U(OP)` is 12, 13, 14 or 15 (R55). -/
  | reservedOpcode (op : BitVec 4)
  /-- A serialised request of some other length than 66 bytes, which is no request (R43, R59). -/
  | wrongLength (bytes : Nat)
  deriving DecidableEq, Repr

/-- Decode (R62), with the operands of R53. It reads `CTRL` to choose the operation and then only
the fields that operation reads. -/
def decode (req : Request) : Except DecodeError Instr :=
  if ctrlRsv req.ctrl ≠ 0#4 then .error (.reservedBits (ctrlRsv req.ctrl))
  else
    match U (ctrlOp req.ctrl) with
    | 0 => .ok (.mulu req.aLo req.bLo)
    | 1 => .ok (.muls req.aLo req.bLo)
    | 2 => .ok (.divu req.aHi req.aLo req.bLo)
    | 3 => .ok (.divs req.aHi req.aLo req.bLo)
    | 4 => .ok (.shru req.aHi req.aLo (U (ctrlSh req.ctrl)))
    | 5 => .ok (.shrs req.aHi req.aLo (U (ctrlSh req.ctrl)))
    | 6 => .ok (.shlnu req.aHi req.aLo (U (ctrlSh req.ctrl)))
    | 7 => .ok (.shlns req.aHi req.aLo (U (ctrlSh req.ctrl)))
    | 8 => .ok (.add req.aHi req.aLo req.bHi req.bLo)
    | 9 => .ok (.sub req.aHi req.aLo req.bHi req.bLo)
    | 10 => .ok (.neg req.aHi req.aLo)
    | 11 => .ok (.sext req.aLo)
    | _ => .error (.reservedOpcode (ctrlOp req.ctrl))

/-! ### The packed request, R57, and its bytes, R42 -/

/-- `REQ = CTRL ∥ B_HI ∥ B_LO ∥ A_HI ∥ A_LO`, 528 bits (R57). -/
def packRequest (req : Request) : BitVec 528 :=
  req.ctrl ++ req.bHi ++ req.bLo ++ req.aHi ++ req.aLo

/-- The fields of a packed request, at the bit positions of R57. -/
def unpackRequest (v : BitVec 528) : Request where
  ctrl := v.extractLsb' 512 16
  bHi := v.extractLsb' 384 128
  bLo := v.extractLsb' 256 128
  aHi := v.extractLsb' 128 128
  aLo := v.extractLsb' 0 128

/-- The `n` low bytes of a number, least significant first: "byte k of the serialised form holds
bits 8k+7 down to 8k" (R42). -/
def leBytes : Nat → Nat → List Byte
  | 0, _ => []
  | n + 1, v => BitVec.ofNat 8 v :: leBytes n (v / 256)

/-- The number that a list of bytes, least significant first, spells (R42). -/
def ofLeBytes : List Byte → Nat
  | [] => 0
  | b :: bs => U b + 256 * ofLeBytes bs

/-- A serialised request: 66 bytes (R42). -/
def requestBytes (req : Request) : List Byte := leBytes 66 (U (packRequest req))

/-- The request that 66 bytes spell; no other length is a request (R43, R59). -/
def requestOfBytes (bs : List Byte) : Option Request :=
  if bs.length = 66 then some (unpackRequest (BitVec.ofNat 528 (ofLeBytes bs))) else none

/-- Decode a serialised request; total on any list of bytes. -/
def decodeBytes (bs : List Byte) : Except DecodeError Instr :=
  match requestOfBytes bs with
  | some req => decode req
  | none => .error (.wrongLength bs.length)

/-! ### Encode -/

/-- The opcode `OP` of an instruction (R54). -/
def opcode : Instr → BitVec 4
  | .mulu _ _ => 0x0#4
  | .muls _ _ => 0x1#4
  | .divu _ _ _ => 0x2#4
  | .divs _ _ _ => 0x3#4
  | .shru _ _ _ => 0x4#4
  | .shrs _ _ _ => 0x5#4
  | .shlnu _ _ _ => 0x6#4
  | .shlns _ _ _ => 0x7#4
  | .add _ _ _ _ => 0x8#4
  | .sub _ _ _ _ => 0x9#4
  | .neg _ _ => 0xA#4
  | .sext _ => 0xB#4

/-- The canonical request of an instruction: `RSV` and every ignored field are zero (R57). -/
def encode (i : Instr) : Request :=
  match i with
  | .mulu aLo bLo => ⟨mkCtrl 0 (opcode i), aLo, 0#128, bLo, 0#128⟩
  | .muls aLo bLo => ⟨mkCtrl 0 (opcode i), aLo, 0#128, bLo, 0#128⟩
  | .divu aHi aLo bLo => ⟨mkCtrl 0 (opcode i), aLo, aHi, bLo, 0#128⟩
  | .divs aHi aLo bLo => ⟨mkCtrl 0 (opcode i), aLo, aHi, bLo, 0#128⟩
  | .shru aHi aLo sh => ⟨mkCtrl sh (opcode i), aLo, aHi, 0#128, 0#128⟩
  | .shrs aHi aLo sh => ⟨mkCtrl sh (opcode i), aLo, aHi, 0#128, 0#128⟩
  | .shlnu aHi aLo sh => ⟨mkCtrl sh (opcode i), aLo, aHi, 0#128, 0#128⟩
  | .shlns aHi aLo sh => ⟨mkCtrl sh (opcode i), aLo, aHi, 0#128, 0#128⟩
  | .add aHi aLo bHi bLo => ⟨mkCtrl 0 (opcode i), aLo, aHi, bLo, bHi⟩
  | .sub aHi aLo bHi bLo => ⟨mkCtrl 0 (opcode i), aLo, aHi, bLo, bHi⟩
  | .neg aHi aLo => ⟨mkCtrl 0 (opcode i), aLo, aHi, 0#128, 0#128⟩
  | .sext aLo => ⟨mkCtrl 0 (opcode i), aLo, 0#128, 0#128, 0#128⟩

/-- The 66 bytes of the canonical request of an instruction. -/
def encodeBytes (i : Instr) : List Byte := requestBytes (encode i)

/-! ### The opcode map as a table, R54 -/

/-- The mnemonic of an instruction (R54). -/
def mnemonic : Instr → String
  | .mulu _ _ => "MULU"
  | .muls _ _ => "MULS"
  | .divu _ _ _ => "DIVU"
  | .divs _ _ _ => "DIVS"
  | .shru _ _ _ => "SHRU"
  | .shrs _ _ _ => "SHRS"
  | .shlnu _ _ _ => "SHLNU"
  | .shlns _ _ _ => "SHLNS"
  | .add _ _ _ _ => "ADD"
  | .sub _ _ _ _ => "SUB"
  | .neg _ _ => "NEG"
  | .sext _ => "SEXT"

/-- A row of the opcode map: "a control word `c` selects the row when `(c AND mask) = match`". -/
structure OpcodeRow where
  mnemonic : String
  matchBits : BitVec 16
  mask : BitVec 16
  deriving DecidableEq, Repr

/-- The control word selects the row (R54). -/
def OpcodeRow.selects (row : OpcodeRow) (c : BitVec 16) : Bool := c &&& row.mask == row.matchBits

/-- The table of R54. -/
def opcodeTable : List OpcodeRow :=
  [⟨"MULU", 0x0000#16, 0x00FF#16⟩, ⟨"MULS", 0x0001#16, 0x00FF#16⟩,
   ⟨"DIVU", 0x0002#16, 0x00FF#16⟩, ⟨"DIVS", 0x0003#16, 0x00FF#16⟩,
   ⟨"SHRU", 0x0004#16, 0x00FF#16⟩, ⟨"SHRS", 0x0005#16, 0x00FF#16⟩,
   ⟨"SHLNU", 0x0006#16, 0x00FF#16⟩, ⟨"SHLNS", 0x0007#16, 0x00FF#16⟩,
   ⟨"ADD", 0x0008#16, 0x00FF#16⟩, ⟨"SUB", 0x0009#16, 0x00FF#16⟩,
   ⟨"NEG", 0x000A#16, 0x00FF#16⟩, ⟨"SEXT", 0x000B#16, 0x00FF#16⟩]

/-! ### Words numbered as `spec/opcode_table.json` numbers them -/

/-- The request of a table word: the first word, bits 15:0, is `CTRL`; the operand words, to which
the table gives no bits, count on from it in the order `A_LO`, `A_HI`, `B_LO`, `B_HI`, and every bit
above `nbits` is 0 (log 7). -/
def tableRequest (nbits w : Nat) : Request :=
  let v := w % 2 ^ nbits
  { ctrl := BitVec.ofNat 16 v
    aLo := BitVec.ofNat 128 (v >>> 16)
    aHi := BitVec.ofNat 128 (v >>> 144)
    bLo := BitVec.ofNat 128 (v >>> 272)
    bHi := BitVec.ofNat 128 (v >>> 400) }

/-- The instruction the decoder reads from a table word. -/
def decodeTableWord (nbits w : Nat) : Option Instr :=
  match decode (tableRequest nbits w) with
  | .ok i => some i
  | .error _ => none

end Sys2Proof
end

