-- ==== Sys2Proof/Machine/Operands.lean ====
section
/-! DEFINITION. The operand forms of the block: limb pairs, their limbs, sign copies, and the
roundings of R7. -/

namespace Sys2Proof.Machine

/-- `hi ∥ lo`, a double-width value from its limbs (`20_memory.md` R41; the shorthands `A` and `B`
of `00_scope.md` R9). -/
def double (hi lo : Limb) : Double := hi ++ lo

/-- `v[255:128]`, the high limb (R9, R41). -/
def hiLimb (v : Double) : Limb := v.extractLsb' 128 128

/-- `v[127:0]`, the low limb (R9, R41). -/
def loLimb (v : Double) : Limb := v.extractLsb' 0 128

/-- 128 copies of a bit (R56). -/
def copies (b : Bool) : Limb := if b then BitVec.allOnes 128 else 0#128

/-- `floor(x / 2^s)` of an unsigned value (R7). -/
def floorShift (x s : Nat) : Nat := x / 2 ^ s

/-- `floor(x / 2^s)` of a signed value, "rounds a rational toward minus infinity" (R7). -/
def floorShiftInt (x : Int) (s : Nat) : Int := Int.fdiv x (2 ^ s)

/-- `trunc(x / y)`, "rounds toward zero" (R7). -/
def truncDiv (x y : Int) : Int := Int.tdiv x y

/-- `clz128(v)`: the count of leading zero bits, 0 to 128 (R7). -/
def clz128 (v : Limb) : Nat := if U v = 0 then 128 else 127 - Nat.log2 (U v)

end Sys2Proof.Machine
end

