-- ==== Sys2Proof/Machine/Flags.lean ====
section
/-! DEFINITION. Every flag computation of the block (`44_overflow_flags.md` R111). -/

namespace Sys2Proof.Machine

/-- `OVF` of SHLNU: the window value does not fit 128 unsigned bits (`42_shift.md` R93). -/
def narrowOverflowU (w : Nat) : Bool := decide (w ≥ 2 ^ 128)

/-- `OVF` of SHLNS: the window value does not fit 128 signed bits (R94). -/
def narrowOverflowS (w : Int) : Bool := decide (w < -2 ^ 127 ∨ w > 2 ^ 127 - 1)

/-- `CARRY` of ADD: carry out of bit 255 (`43_add_sub_neg_sext.md` R100). -/
def addCarry (a b : Double) : Bool := decide (U a + U b ≥ 2 ^ 256)

/-- `OVF` of ADD: the signed sum is not the sum's signed reading (R100). -/
def addOverflow (a b : Double) : Bool := decide (S a + S b ≠ S (bv 256 (U a + U b)))

/-- `CARRY` of SUB: the borrow (R101). -/
def subBorrow (a b : Double) : Bool := decide (U a < U b)

/-- `OVF` of SUB: the signed difference is not the difference's signed reading (R101). -/
def subOverflow (a b : Double) : Bool := decide (S a - S b ≠ S (bv 256 ((U a : Int) - U b)))

/-- `CARRY` of NEG: the borrow of `0 - a` (R102). -/
def negBorrow (a : Double) : Bool := decide (U a ≠ 0)

/-- `OVF` of NEG: the operand is the `DSMIN` pattern `0x8000...0 : 0` (R102). -/
def negOverflow (a : Double) : Bool := decide (a = double 0x80000000000000000000000000000000#128 0#128)

end Sys2Proof.Machine
end

