-- ==== Sys2Proof/Config.lean ====
section
/-! DEFINITION. What an implementation fixes and the spec leaves open, and the free values.
None of these constants has a body, so no proof can learn what it is. -/

namespace Sys2Proof

/-- `LATENCY`, the delay from request to response (`00_scope.md` R6, `70_reset_and_hazards.md`
R141): open, read by no rule, and so read by no definition of the model (log 9). -/
opaque Config.latency : Nat

/-- The free value of `R_LO` in the response to a request whose precondition is false
(`60_exceptions.md` R122; log 2). Its arguments are the model's counter of such responses and the
packed canonical request (log 3). -/
opaque Config.freeRLo : Nat → BitVec 528 → Limb

/-- The free value of `R_HI` in such a response (R122; log 2, log 3). -/
opaque Config.freeRHi : Nat → BitVec 528 → Limb

/-- The free value of `OVF` in such a response (R122; log 2, log 3). -/
opaque Config.freeOvf : Nat → BitVec 528 → Bool

/-- The free value of `CARRY` in such a response (R122; log 2, log 3). -/
opaque Config.freeCarry : Nat → BitVec 528 → Bool

end Sys2Proof
end

