-- ==== Sys2Proof/Machine/State.lean ====
section
/-! DEFINITION. The state of the machine as plain data, the reasons a step can stop, and reset.
The block keeps no state between transactions (`10_state.md` R20), so State holds what stands at
its ports, and the counter of the free values (log 1, log 3). -/

namespace Sys2Proof.Machine

/-- A response: `R_LO`, `R_HI` and the three flags (`10_state.md` R27, R28; `30_encoding.md` R56). -/
structure Response where
  rLo : Limb
  rHi : Limb
  ovf : Bool
  carry : Bool
  ill : Bool
  deriving DecidableEq, Repr

/-- The state. -/
structure State where
  /-- The level of the reset input (`70_reset_and_hazards.md` R135; log 5). -/
  inReset : Bool
  /-- The requests presented and not yet answered, oldest first (`20_memory.md` R46). -/
  requests : List Request
  /-- The responses issued, oldest first: one per request, in request order (R46, R143). -/
  responses : List Response
  /-- The MODEL's own counter: how many responses with undefined content were given (log 3). -/
  freeIndex : Nat
  deriving DecidableEq, Repr

/-- Why the debug-only assertion of `60_exceptions.md` R123 stops a simulation. The block itself
never faults: no `exec` and no `step` answers any of these, only `stepChecked` does. -/
inductive Fault where
  /-- P-DIVZERO is false (R121; `93_implementation_defined.md` U1). Raised by `stepChecked` only.
  Safe: it stops where the hardware goes on. -/
  | zeroDivisor
  /-- P-QFIT-U is false and the divisor is not zero (R121, U2). Raised by `stepChecked` only. Safe. -/
  | quotientOverflowUnsigned
  /-- P-QFIT-S is false and the divisor is not zero (R121, U3). Raised by `stepChecked` only. Safe. -/
  | quotientOverflowSigned
  /-- P-SHCNT is false (R121, U4). Raised by `stepChecked` only. Safe. -/
  | shiftCountAbove128
  deriving DecidableEq, Repr

/-- What has no meaning. -/
inductive Refusal where
  /-- An instruction without a meaning; no arm of `exec` answers it in this model. Safe. -/
  | notModelled (mnemonic : String)
  /-- A half-limb division step run with a divisor whose high half-limb is zero
  (`41_narrowing_divide.md` R85, `93_implementation_defined.md` U5, treatment `refuse`). Raised by
  the reference datapath `divHalf` only, never by `exec` or `step`. Safe. -/
  | divisorNotNormalised
  deriving DecidableEq, Repr

/-- The machine right after reset: reset released, "no response pending", ready for a request
(`10_state.md` R33, `70_reset_and_hazards.md` R135). `freeIndex` is the model's own (log 3). -/
def State.reset : State where
  inReset := false
  requests := []
  responses := []
  freeIndex := 0

end Sys2Proof.Machine
end

