-- ==== Sys2Proof/Machine/Ops.lean ====
section
/-! DEFINITION. The operations on the state that the meanings, the step and the host share. -/

namespace Sys2Proof.Machine

/-! ### Responses -/

/-- The response `R <- v` with the given flags and `ILL = 0` (`00_scope.md` R9, R56). -/
def wideResponse (v : Double) (ovf carry : Bool) : Response where
  rLo := loLimb v
  rHi := hiLimb v
  ovf := ovf
  carry := carry
  ill := false

/-- A response given by its two limbs, with `CARRY = 0` and `ILL = 0` (R56). -/
def limbResponse (rHi rLo : Limb) (ovf : Bool) : Response where
  rLo := rLo
  rHi := rHi
  ovf := ovf
  carry := false
  ill := false

/-- The response of an illegal request (`60_exceptions.md` R124). -/
def illegalResponse : Response where
  rLo := 0#128
  rHi := 0#128
  ovf := false
  carry := false
  ill := true

/-- The response of a request whose precondition is false: "no bit of `R_LO`, `R_HI`, `OVF` or
`CARRY` of that response is defined", and `ILL` "is 0" (R122). The four are free values (log 2),
the `n`-th of their kind, of the packed canonical request (log 3). -/
def freeResponse (i : Instr) (n : Nat) : Response where
  rLo := Config.freeRLo n (packRequest (encode i))
  rHi := Config.freeRHi n (packRequest (encode i))
  ovf := Config.freeOvf n (packRequest (encode i))
  carry := Config.freeCarry n (packRequest (encode i))
  ill := false

/-- `RSP = FLAGS ∥ R_HI ∥ R_LO`, 259 bits, with `ILL`, `CARRY`, `OVF` at bits 258, 257, 256
(`30_encoding.md` R58). -/
def packResponse (r : Response) : BitVec 259 :=
  BitVec.ofBool r.ill ++ BitVec.ofBool r.carry ++ BitVec.ofBool r.ovf ++ r.rHi ++ r.rLo

/-- The fields of a packed response (R58). -/
def unpackResponse (v : BitVec 259) : Response where
  rLo := v.extractLsb' 0 128
  rHi := v.extractLsb' 128 128
  ovf := v.getLsbD 256
  carry := v.getLsbD 257
  ill := v.getLsbD 258

/-- A serialised response: 33 bytes, "padded with five zero bits at the top" (`20_memory.md` R42). -/
def responseBytes (r : Response) : List Byte := leBytes 33 (U (packResponse r))

/-! ### Answering a request -/

/-- Issue one response (R46). -/
def respond (r : Response) (s : State) : State := { s with responses := s.responses ++ [r] }

/-- The outcome of a transaction: its response, "and nothing else" (R20, R122). -/
def answer (r : Response) (s : State) : Host.Outcome State Fault Refusal := .next (respond r s)

/-- The outcome of a transaction whose precondition is false: still one response, whose content is
free, and the counter of free values moves on (R122; log 2, log 3). -/
def answerFree (i : Instr) (s : State) : Host.Outcome State Fault Refusal :=
  .next { respond (freeResponse i s.freeIndex) s with freeIndex := s.freeIndex + 1 }

/-- The outcome of a transaction with the precondition `p` (`require p`, R9). -/
def answerWhen (p : Bool) (r : Response) (i : Instr) (s : State) :
    Host.Outcome State Fault Refusal :=
  if p then answer r s else answerFree i s

/-- `raise IllegalRequest`, the block's one exception: "a response value, not a trap" (R9, R124).
Nothing is saved, no mode changes, there is no handler and no return (R128, R129). -/
def raiseIllegalRequest (s : State) : State := respond illegalResponse s

/-! ### What the outside does -/

/-- The host presents a request; "during reset the block accepts no request" (R135; log 5). -/
def present (req : Request) (s : State) : State :=
  if s.inReset then s else { s with requests := s.requests ++ [req] }

/-- Reset is asserted: requests in flight are "dropped and never answered" (R135; log 5). -/
def assertReset (s : State) : State := { s with inReset := true, requests := [] }

/-- Reset is released: the block "is ready for a request" (`10_state.md` R33, R135). -/
def releaseReset (s : State) : State := { s with inReset := false }

end Sys2Proof.Machine
end

