-- ==== Sys2Proof/Machine/AddSub.lean ====
section
/-! DEFINITION. Double-width add, subtract, negate, sign-extend (`43_add_sub_neg_sext.md` R100 to
R103). -/

namespace Sys2Proof.Machine

/-- ADD (R100). There is no carry-in. -/
def execAdd (aHi aLo bHi bLo : Limb) (s : State) : Host.Outcome State Fault Refusal :=
  let a := double aHi aLo
  let b := double bHi bLo
  answer (wideResponse (bv 256 (U a + U b)) (addOverflow a b) (addCarry a b)) s

/-- SUB (R101). `CARRY` is the borrow; there is no borrow-in. -/
def execSub (aHi aLo bHi bLo : Limb) (s : State) : Host.Outcome State Fault Refusal :=
  let a := double aHi aLo
  let b := double bHi bLo
  answer (wideResponse (bv 256 ((U a : Int) - U b)) (subOverflow a b) (subBorrow a b)) s

/-- NEG (R102): `R <- bv_256(2^256 - a)`. -/
def execNeg (aHi aLo : Limb) (s : State) : Host.Outcome State Fault Refusal :=
  let a := double aHi aLo
  answer (wideResponse (bv 256 (2 ^ 256 - (U a : Int))) (negOverflow a) (negBorrow a)) s

/-- SEXT (R103): `R_HI` is 128 copies of `A_LO[127]`. -/
def execSext (aLo : Limb) (s : State) : Host.Outcome State Fault Refusal :=
  answer (limbResponse (copies (aLo.getLsbD 127)) aLo false) s

end Sys2Proof.Machine
end

