-- ==== Sys2Proof/Machine/Preconditions.lean ====
section
/-! DEFINITION. The complete list of preconditions (`60_exceptions.md` R121) and which of them an
instruction breaks. The hardware tests none of them (R122); the meanings use them only to know
where the response has no defined content. -/

namespace Sys2Proof.Machine

/-- P-DIVZERO: `B_LO != 0`. -/
def divisorNotZero (bLo : Limb) : Bool := decide (U bLo ≠ 0)

/-- P-QFIT-U: `U(A_HI) < U(B_LO)`. -/
def quotientFitsU (aHi bLo : Limb) : Bool := decide (U aHi < U bLo)

/-- P-QFIT-S: `trunc(S(A) / S(B_LO))` is in -2^127 to 2^127 - 1. -/
def quotientFitsS (aHi aLo bLo : Limb) : Bool :=
  let q := truncDiv (S (double aHi aLo)) (S bLo)
  decide (-2 ^ 127 ≤ q ∧ q ≤ 2 ^ 127 - 1)

/-- P-SHCNT: `U(SH) <= 128`. -/
def shiftCountLegal (sh : Nat) : Bool := decide (sh ≤ 128)

/-- The precondition that an instruction breaks, if any. Where a divide breaks two (R127: "no order
between them is observable") the zero divisor is named (log 14). -/
def violation : Instr → Option Fault
  | .mulu _ _ => none
  | .muls _ _ => none
  | .divu aHi _ bLo =>
    if !divisorNotZero bLo then some .zeroDivisor
    else if !quotientFitsU aHi bLo then some .quotientOverflowUnsigned else none
  | .divs aHi aLo bLo =>
    if !divisorNotZero bLo then some .zeroDivisor
    else if !quotientFitsS aHi aLo bLo then some .quotientOverflowSigned else none
  | .shru _ _ sh => if shiftCountLegal sh then none else some .shiftCountAbove128
  | .shrs _ _ sh => if shiftCountLegal sh then none else some .shiftCountAbove128
  | .shlnu _ _ _ => none
  | .shlns _ _ _ => none
  | .add _ _ _ _ => none
  | .sub _ _ _ _ => none
  | .neg _ _ => none
  | .sext _ => none

/-- The precondition that a request breaks, if any. An illegal request breaks none: "the data fields
are not looked at" (R127). -/
def requestViolation (req : Request) : Option Fault :=
  match decode req with
  | .ok i => violation i
  | .error _ => none

end Sys2Proof.Machine
end

