-- ==== Sys2Proof/Machine/Divide.lean ====
section
/-! DEFINITION. Narrowing divide: DIVU and DIVS (`41_narrowing_divide.md` R80, R81). The quotient
goes to `R_LO`, the remainder to `R_HI`, no flag. -/

namespace Sys2Proof.Machine

/-- DIVU (R80), with P-DIVZERO and P-QFIT-U. -/
def execDivu (aHi aLo bLo : Limb) (s : State) : Host.Outcome State Fault Refusal :=
  let n := U (double aHi aLo)
  let d := U bLo
  let q := n / d
  let r := n - q * d
  answerWhen (divisorNotZero bLo && quotientFitsU aHi bLo)
    (limbResponse (bv 128 r) (bv 128 q) false) (.divu aHi aLo bLo) s

/-- DIVS (R81), with P-DIVZERO and P-QFIT-S: the quotient rounds toward zero. -/
def execDivs (aHi aLo bLo : Limb) (s : State) : Host.Outcome State Fault Refusal :=
  let n := S (double aHi aLo)
  let d := S bLo
  let q := truncDiv n d
  let r := n - q * d
  answerWhen (divisorNotZero bLo && quotientFitsS aHi aLo bLo)
    (limbResponse (bv 128 r) (bv 128 q) false) (.divs aHi aLo bLo) s

end Sys2Proof.Machine
end

