-- ==== Sys2Proof/Machine/Multiply.lean ====
section
/-! DEFINITION. Widening multiply: MULU and MULS (`40_widening_multiply.md` R70, R71). -/

namespace Sys2Proof.Machine

/-- MULU (R70): `R <- bv_256(U(A_LO) * U(B_LO))`, no flag. -/
def execMulu (aLo bLo : Limb) (s : State) : Host.Outcome State Fault Refusal :=
  let p := U aLo * U bLo
  answer (wideResponse (bv 256 p) false false) s

/-- MULS (R71): `R <- bv_256(S(A_LO) * S(B_LO))`, no flag. -/
def execMuls (aLo bLo : Limb) (s : State) : Host.Outcome State Fault Refusal :=
  let p := S aLo * S bLo
  answer (wideResponse (bv 256 p) false false) s

end Sys2Proof.Machine
end

