-- ==== Sys2Proof/Machine/Shift.lean ====
section
/-! DEFINITION. Double-width shifts: SHRU, SHRS, SHLNU, SHLNS (`42_shift.md` R90 to R94). -/

namespace Sys2Proof.Machine

/-- SHRU (R90): `R <- bv_256(floor(x / 2^s))`, zeros enter at bit 255; P-SHCNT. -/
def execShru (aHi aLo : Limb) (sh : Nat) (s : State) : Host.Outcome State Fault Refusal :=
  let x := U (double aHi aLo)
  answerWhen (shiftCountLegal sh)
    (wideResponse (bv 256 (floorShift x sh)) false false) (.shru aHi aLo sh) s

/-- SHRS (R91): `R <- bv_256(floor(x / 2^s))` of the signed value, copies of `A[255]` enter at bit
255; P-SHCNT. -/
def execShrs (aHi aLo : Limb) (sh : Nat) (s : State) : Host.Outcome State Fault Refusal :=
  let x := S (double aHi aLo)
  answerWhen (shiftCountLegal sh)
    (wideResponse (bv 256 (floorShiftInt x sh)) false false) (.shrs aHi aLo sh) s

/-- SHLNU (R93): the 128 bits kept are those at 255 to 128 of the shifted value; `R_HI` is zero;
`OVF` when the window value does not fit. No precondition. -/
def execShlnu (aHi aLo : Limb) (sh : Nat) (s : State) : Host.Outcome State Fault Refusal :=
  let x := U (double aHi aLo)
  let y := x * 2 ^ sh
  let w := floorShift y 128
  answer (limbResponse 0#128 (bv 128 w) (narrowOverflowU w)) s

/-- SHLNS (R94): as SHLNU on the signed value; `R_HI` is the sign extension of `R_LO`. -/
def execShlns (aHi aLo : Limb) (sh : Nat) (s : State) : Host.Outcome State Fault Refusal :=
  let x := S (double aHi aLo)
  let y := x * 2 ^ sh
  let w := floorShiftInt y 128
  let rLo : Limb := bv 128 w
  answer (limbResponse (copies (rLo.getLsbD 127)) rLo (narrowOverflowS w)) s

end Sys2Proof.Machine
end

