-- ==== Sys2Proof/Machine/Dispatch.lean ====
section
/-! DEFINITION. One arm per instruction: the meaning it calls (`30_encoding.md` R54). -/

namespace Sys2Proof.Machine

/-- What an instruction does to the state. -/
def exec (i : Instr) (s : State) : Host.Outcome State Fault Refusal :=
  match i with
  | .mulu aLo bLo => Sys2Proof.Machine.execMulu aLo bLo s
  | .muls aLo bLo => Sys2Proof.Machine.execMuls aLo bLo s
  | .divu aHi aLo bLo => Sys2Proof.Machine.execDivu aHi aLo bLo s
  | .divs aHi aLo bLo => Sys2Proof.Machine.execDivs aHi aLo bLo s
  | .shru aHi aLo sh => Sys2Proof.Machine.execShru aHi aLo sh s
  | .shrs aHi aLo sh => Sys2Proof.Machine.execShrs aHi aLo sh s
  | .shlnu aHi aLo sh => Sys2Proof.Machine.execShlnu aHi aLo sh s
  | .shlns aHi aLo sh => Sys2Proof.Machine.execShlns aHi aLo sh s
  | .add aHi aLo bHi bLo => Sys2Proof.Machine.execAdd aHi aLo bHi bLo s
  | .sub aHi aLo bHi bLo => Sys2Proof.Machine.execSub aHi aLo bHi bLo s
  | .neg aHi aLo => Sys2Proof.Machine.execNeg aHi aLo s
  | .sext aLo => Sys2Proof.Machine.execSext aLo s

end Sys2Proof.Machine
end

