-- ==== Sys2Proof/Machine/Fetch.lean ====
section
/-! DEFINITION. How the block takes its next request, and how one is put where it takes it. -/

namespace Sys2Proof.Machine

/-- Take the oldest request at the port, if the block is not in reset: "during reset the block
accepts no request" (R135), "responses leave in the order their requests arrived" (R46). All fields
are taken together (R44). -/
def takeRequest (s : State) : Option (Request × State) :=
  if s.inReset then none
  else
    match s.requests with
    | [] => none
    | req :: rest => some (req, { s with requests := rest })

/-- Put a request where the block takes its next one, and end reset so that it does (log 6). -/
def placeRequest (req : Request) (s : State) : State :=
  { s with inReset := false, requests := req :: s.requests }

end Sys2Proof.Machine
end

