-- ==== Sys2Proof/Machine/Step.lean ====
section
/-! DEFINITION. One step is one transaction (`00_scope.md` R10, `70_reset_and_hazards.md` R141). -/

namespace Sys2Proof.Machine

/-- One transaction: the oldest request is taken, decoded and answered. "Decode comes first"
(`60_exceptions.md` R127): an illegal request gets the response of R124. With no request to take
(none presented, or reset asserted) nothing happens (log 4). -/
def step (s : State) : Host.Outcome State Fault Refusal :=
  match takeRequest s with
  | none => .next s
  | some (req, s') =>
    match decode req with
    | .ok i => exec i s'
    | .error _ => .next (raiseIllegalRequest s')

/-- The state in which the very next step runs the instruction of a table word (log 6, log 7). -/
def State.withFetchWord (s : State) (nbits w : Nat) : State := placeRequest (tableRequest nbits w) s

end Sys2Proof.Machine
end

