-- ==== Sys2Proof/Machine/Assembler.lean ====
section
/-! DEFINITION. The spec's notation for requests (`30_encoding.md` R60) and its pseudo-instructions
(R61), from tokens to instructions. "Names live in the host, not in the block": nothing here is part
of the block's state. How a name or a literal is spelled in characters is not in the spec, so the
grammar starts at tokens (log 15). -/

namespace Sys2Proof.Machine

/-- The mnemonics of R54 and R61. -/
inductive Mnemonic where
  | mulu | muls | divu | divs | shru | shrs | shlnu | shlns | add | sub | neg | sext
  | narrowu | narrows | rscu | rscs | shllou | shllos | casts | castu | zext
  deriving DecidableEq, Repr

/-- `op128 ::= literal | name ".lo" | name ".hi"` (R60). -/
inductive Op128 where
  | lit (v : Limb)
  | lo (name : String)
  | hi (name : String)
  deriving DecidableEq, Repr

/-- `op256 ::= op128 ":" op128 | name` (R60): "high limb, colon, low limb", or the pair
`name.hi : name.lo`. -/
inductive Op256 where
  | pair (hi lo : Op128)
  | name (n : String)
  deriving DecidableEq, Repr

/-- What follows the mnemonic (R60). -/
inductive Operands where
  | limbLimb (a b : Op128)
  | doubleLimb (a : Op256) (b : Op128)
  | doubleCount (a : Op256) (count : Nat)
  | doubleDouble (a b : Op256)
  | double (a : Op256)
  | limb (a : Op128)
  deriving DecidableEq, Repr

/-- `line ::= [ name "=" ] mnemonic operands [ ";" comment ]` (R60). The comment means nothing. -/
structure Line where
  bind : Option String
  mnemonic : Mnemonic
  operands : Operands
  deriving DecidableEq, Repr

/-- The tokens of a line (R60). A literal is the number it spells. -/
inductive Token where
  | name (n : String)
  | literal (v : Nat)
  | mnemonic (m : Mnemonic)
  | equals | comma | colon | hash | dotLo | dotHi
  | comment (text : String)
  deriving DecidableEq, Repr

/-! ### Parsing -/

/-- Parse an `op128` and give the tokens after it. A literal is a 128-bit value. DESIGN CHOICE
(log 15): a bare name is no `op128`, as in the grammar of R60, although R60's own example
`p = MULU x, y` and V25's `s = DIVS n, d` write one; there the host writes `x.lo`. -/
def parseOp128 : List Token → Option (Op128 × List Token)
  | .literal v :: rest => if v < 2 ^ 128 then some (.lit (BitVec.ofNat 128 v), rest) else none
  | .name n :: .dotLo :: rest => some (.lo n, rest)
  | .name n :: .dotHi :: rest => some (.hi n, rest)
  | _ => none

/-- Parse an `op256` and give the tokens after it. -/
def parseOp256 (ts : List Token) : Option (Op256 × List Token) :=
  match parseOp128 ts with
  | some (h, .colon :: rest) =>
    match parseOp128 rest with
    | some (l, rest') => some (.pair h l, rest')
    | none => none
  | some _ => none
  | none =>
    match ts with
    | .name n :: rest => some (.name n, rest)
    | _ => none

/-- Parse `"," "#" count`, where "`count ::= decimal 0 to 255`". -/
def parseCount : List Token → Option (Nat × List Token)
  | .comma :: .hash :: .literal v :: rest => if v < 256 then some (v, rest) else none
  | _ => none

/-- Parse `op128 "," op128`. -/
def parseLimbLimb (ts : List Token) : Option (Operands × List Token) :=
  match parseOp128 ts with
  | some (a, .comma :: rest) => (parseOp128 rest).map fun (b, rest') => (.limbLimb a b, rest')
  | _ => none

/-- Parse `op256 "," op128`. -/
def parseDoubleLimb (ts : List Token) : Option (Operands × List Token) :=
  match parseOp256 ts with
  | some (a, .comma :: rest) => (parseOp128 rest).map fun (b, rest') => (.doubleLimb a b, rest')
  | _ => none

/-- Parse `op256 "," "#" count`. -/
def parseDoubleCount (ts : List Token) : Option (Operands × List Token) :=
  match parseOp256 ts with
  | some (a, rest) => (parseCount rest).map fun (c, rest') => (.doubleCount a c, rest')
  | none => none

/-- Parse `op256 "," op256`. -/
def parseDoubleDouble (ts : List Token) : Option (Operands × List Token) :=
  match parseOp256 ts with
  | some (a, .comma :: rest) => (parseOp256 rest).map fun (b, rest') => (.doubleDouble a b, rest')
  | _ => none

/-- The operands each mnemonic takes (R60 for the instructions, R61 for the pseudo-instructions). -/
def parseOperands (m : Mnemonic) (ts : List Token) : Option (Operands × List Token) :=
  match m with
  | .mulu | .muls => parseLimbLimb ts
  | .divu | .divs => parseDoubleLimb ts
  | .shru | .shrs | .shlnu | .shlns | .rscu | .rscs | .shllou | .shllos => parseDoubleCount ts
  | .add | .sub => parseDoubleDouble ts
  | .neg | .narrowu | .narrows | .casts | .castu =>
    (parseOp256 ts).map fun (a, rest) => (.double a, rest)
  | .sext | .zext => (parseOp128 ts).map fun (a, rest) => (.limb a, rest)

/-- Parse what stands after the optional `name "="`. -/
def parseBody (bind : Option String) (ts : List Token) : Option Line :=
  match ts with
  | .mnemonic m :: rest =>
    match parseOperands m rest with
    | some (ops, []) => some ⟨bind, m, ops⟩
    | some (ops, [.comment _]) => some ⟨bind, m, ops⟩
    | _ => none
  | _ => none

/-- Parse a line (R60). -/
def parseLine (ts : List Token) : Option Line :=
  match ts with
  | .name n :: .equals :: rest => parseBody (some n) rest
  | _ => parseBody none ts

/-! ### Assembling -/

/-- The host's names: the value each is bound to, a 256-bit pair `name.hi : name.lo`, latest first
(R60, R61). -/
abbrev Env := List (String × Double)

/-- The value a name is bound to. -/
def lookupName (env : Env) (n : String) : Option Double := (env.find? fun p => p.1 == n).map (·.2)

/-- The value of an `op128`. -/
def evalOp128 (env : Env) : Op128 → Option Limb
  | .lit v => some v
  | .lo n => (lookupName env n).map loLimb
  | .hi n => (lookupName env n).map hiLimb

/-- The value of an `op256`. -/
def evalOp256 (env : Env) : Op256 → Option Double
  | .pair h l =>
    match evalOp128 env h, evalOp128 env l with
    | some vh, some vl => some (double vh vl)
    | _, _ => none
  | .name n => lookupName env n

/-- What a line stands for: "each expands to exactly one request, or to none" (R61). Where it is no
request, the host has the value at once. -/
inductive Expansion where
  | request (i : Instr)
  | value (v : Double)
  deriving DecidableEq, Repr

/-- The expansion on one 256-bit operand and a count; the ranges of `F` and `k` are those of R61. -/
def expandCount (m : Mnemonic) (v : Double) (c : Nat) : Option Expansion :=
  match m with
  | .shru => some (.request (.shru (hiLimb v) (loLimb v) c))
  | .shrs => some (.request (.shrs (hiLimb v) (loLimb v) c))
  | .shlnu => some (.request (.shlnu (hiLimb v) (loLimb v) c))
  | .shlns => some (.request (.shlns (hiLimb v) (loLimb v) c))
  | .rscu => if c ≤ 128 then some (.request (.shlnu (hiLimb v) (loLimb v) (128 - c))) else none
  | .rscs => if c ≤ 128 then some (.request (.shlns (hiLimb v) (loLimb v) (128 - c))) else none
  | .shllou => if c ≤ 127 then some (.request (.shlnu (hiLimb v) (loLimb v) (128 + c))) else none
  | .shllos => if c ≤ 127 then some (.request (.shlns (hiLimb v) (loLimb v) (128 + c))) else none
  | _ => none

/-- The expansion on one 256-bit operand (R60, R61). -/
def expandDouble (m : Mnemonic) (v : Double) : Option Expansion :=
  match m with
  | .neg => some (.request (.neg (hiLimb v) (loLimb v)))
  | .narrowu => some (.request (.shlnu (hiLimb v) (loLimb v) 128))
  | .narrows => some (.request (.shlns (hiLimb v) (loLimb v) 128))
  | .casts => some (.value v)
  | .castu => some (.value v)
  | _ => none

/-- What a line stands for, given the host's names. "The first operand goes to port A and the second
to port B. A 128-bit operand goes to the `_LO` field of its port" (R60). -/
def expand (env : Env) (l : Line) : Option Expansion :=
  match l.operands with
  | .limbLimb a b =>
    match l.mnemonic, evalOp128 env a, evalOp128 env b with
    | .mulu, some va, some vb => some (.request (.mulu va vb))
    | .muls, some va, some vb => some (.request (.muls va vb))
    | _, _, _ => none
  | .doubleLimb a b =>
    match l.mnemonic, evalOp256 env a, evalOp128 env b with
    | .divu, some va, some vb => some (.request (.divu (hiLimb va) (loLimb va) vb))
    | .divs, some va, some vb => some (.request (.divs (hiLimb va) (loLimb va) vb))
    | _, _, _ => none
  | .doubleCount a c => (evalOp256 env a).bind fun v => expandCount l.mnemonic v c
  | .doubleDouble a b =>
    match l.mnemonic, evalOp256 env a, evalOp256 env b with
    | .add, some va, some vb =>
      some (.request (.add (hiLimb va) (loLimb va) (hiLimb vb) (loLimb vb)))
    | .sub, some va, some vb =>
      some (.request (.sub (hiLimb va) (loLimb va) (hiLimb vb) (loLimb vb)))
    | _, _, _ => none
  | .double a => (evalOp256 env a).bind fun v => expandDouble l.mnemonic v
  | .limb a =>
    match l.mnemonic, evalOp128 env a with
    | .sext, some v => some (.request (.sext v))
    | .zext, some v => some (.value (double 0#128 v))
    | _, _ => none

/-- The request a line assembles to, if it is one: "every field the operation ignores is assembled as
zero" (R60). -/
def assemble (env : Env) (l : Line) : Option Request :=
  match expand env l with
  | some (.request i) => some (encode i)
  | _ => none

end Sys2Proof.Machine
end

