-- ==== Sys2Proof/Machine/Assertion.lean ====
section
/-! DEFINITION. The debug-only assertion of `60_exceptions.md` R123: a simulation that checks the
preconditions of R121 on every request and stops when one is false. It is also the treatment
`fault` that R122 and `93_implementation_defined.md` U1 to U4 ask of a model of a consumer (log 2,
log 14). It is no part of the block: `step` never looks at it. -/

namespace Sys2Proof.Machine

/-- The precondition that the request to be taken next breaks, if any. -/
def nextViolation (s : State) : Option Fault :=
  match takeRequest s with
  | none => none
  | some (req, _) => requestViolation req

/-- One step under the assertion: a fault where the next request breaks a precondition, else the
block's own step. -/
def stepChecked (s : State) : Host.Outcome State Fault Refusal :=
  match nextViolation s with
  | some f => .fault f
  | none => step s

end Sys2Proof.Machine
end

