-- ==== Sys2Proof/Machine/Datapath.lean ====
section
/-! DEFINITION. The reference datapaths of the multiplier, the divider, the shifter and the adder
(`40_widening_multiply.md` R72 to R74, `41_narrowing_divide.md` R82 to R86, `42_shift.md` R92, R95,
`43_add_sub_neg_sext.md` R104). They do not bind an implementation (`92_eei_decisions.md` D26) and
no meaning uses them: they are here so that statements can say that they meet the contract. Their
intermediate values are unbounded integers, as in the spec's pseudocode (log 11), so that a bound on
one is a statement. -/

namespace Sys2Proof.Machine

/-- The low half-limb `v[63:0]` (`20_memory.md` R41). -/
def loHalf (v : Limb) : Half := v.extractLsb' 0 64

/-- The high half-limb `v[127:64]` (R41). -/
def hiHalf (v : Limb) : Half := v.extractLsb' 64 64

/-! ### Multiply -/

/-- The columns of the unsigned multiply (R72). -/
structure MuluColumns where
  col0 : Nat
  s1 : Nat
  col1 : Nat
  c1 : Nat
  col2 : Nat
  deriving DecidableEq, Repr

/-- The three-column accumulation of the four partial products (R72). -/
def muluColumns (a b : Limb) : MuluColumns :=
  let ll := U (loHalf a)
  let lh := U (hiHalf a)
  let rl := U (loHalf b)
  let rh := U (hiHalf b)
  let col0 := ll * rl
  let s1 := lh * rl + ll * rh + col0 / 2 ^ 64
  let col1 := s1 % 2 ^ 128
  let c1 := s1 / 2 ^ 128
  let col2 := lh * rh + col1 / 2 ^ 64 + c1 * 2 ^ 64
  ⟨col0, s1, col1, c1, col2⟩

/-- `R_HI ∥ R_LO` of the unsigned datapath (R72). -/
def muluDatapath (a b : Limb) : Double :=
  let c := muluColumns a b
  double (bv 128 c.col2) (bv 128 (c.col0 % 2 ^ 64 + c.col1 % 2 ^ 64 * 2 ^ 64 : Nat))

/-- The mixed half-limb multiply: signed `sb` times unsigned `u` (R73). -/
def mulSignedUnsigned (sb u : Half) : Limb :=
  let raw : Int := U sb * U u
  if sb.getLsbD 63 then bv 128 (raw - U u * 2 ^ 64) else bv 128 raw

/-- The columns of the signed multiply (R74). -/
structure MulsColumns where
  col0 : Int
  s1 : Int
  col2 : Int
  deriving DecidableEq, Repr

/-- The accumulation of the signed multiply, "with signed arithmetic in the top column" (R74). -/
def mulsColumns (a b : Limb) : MulsColumns :=
  let col0 : Int := U (loHalf a) * U (loHalf b)
  let pLh := S (mulSignedUnsigned (hiHalf b) (loHalf a))
  let pHl := S (mulSignedUnsigned (hiHalf a) (loHalf b))
  let pHh := S (hiHalf a) * S (hiHalf b)
  let s1 := pLh + pHl + floorShiftInt col0 64
  let col2 := pHh + floorShiftInt s1 64
  ⟨col0, s1, col2⟩

/-- `R_HI ∥ R_LO` of the signed datapath (R74). -/
def mulsDatapath (a b : Limb) : Double :=
  let c := mulsColumns a b
  double (bv 128 c.col2) (bv 128 (c.col0 % 2 ^ 64 + c.s1 % 2 ^ 64 * 2 ^ 64))

/-! ### Divide -/

/-- The normalised operands (R82). -/
structure Normalised where
  z : Nat
  dn : Nat
  nn : Nat
  dh : Nat
  dl : Nat
  deriving DecidableEq, Repr

/-- Steps 1 and 2: shift divisor and dividend left by the divisor's leading-zero count and split the
divisor into half-limbs (R82). -/
def normalise (n : Double) (d : Limb) : Normalised :=
  let z := clz128 d
  let dn := U d * 2 ^ z
  let nn := U n * 2 ^ z
  ⟨z, dn, nn, dn / 2 ^ 64, dn % 2 ^ 64⟩

/-- What one half-limb step gives: the new remainder, the emitted quotient half, and (for the vectors
of `96_datapath_vectors_and_programs.md` V19) the first estimate and the number of corrections. -/
structure HalfStep where
  r : Nat
  q : Nat
  estimate : Nat
  corrections : Nat
  deriving DecidableEq, Repr

/-- One correction: while the candidate is less than `m`, lower the quotient by one and raise the
candidate by `dn` (R83). The subtraction is exact under R83's `require`: a quotient of 0 never
needs a correction there (log 16). -/
def correct (dn m : Nat) (cq : Nat × Nat × Nat) : Nat × Nat × Nat :=
  if cq.1 < m then (cq.1 + dn, cq.2.1 - 1, cq.2.2 + 1) else cq

/-- Step 3, the half-limb step `div_half(r, dn, next)` (R83): estimate, then at most two
corrections. With a zero high half-limb of the divisor it is refused (R85, U5; log 12). DESIGN CHOICE
(log 16): where R83's `require r < dn, dn >= 2^127, 0 <= next < 2^64` is false and the half-limb is
not zero, the spec gives no result, and the number here, with subtractions cut off at 0, is a
filler. -/
def divHalf (r dn next : Nat) : Except Refusal HalfStep :=
  let dh := dn / 2 ^ 64
  let dl := dn % 2 ^ 64
  if dh = 0 then .error .divisorNotNormalised
  else
    let q := r / dh
    let m := q * dl
    let c := r % dh * 2 ^ 64 + next
    let cq := correct dn m (correct dn m (c, q, 0))
    .ok ⟨cq.1 - m, cq.2.1, q, cq.2.2⟩

/-- The half-limb number `k` of a 256-bit value, `h0` at bits 63:0 (R84). -/
def halfLimbOf (nn k : Nat) : Nat := nn / 2 ^ (64 * k) % 2 ^ 64

/-- What the divider gives: the four emitted halves, the quotient and the remainder (R84). -/
structure DivResult where
  q3 : Nat
  q2 : Nat
  q1 : Nat
  q0 : Nat
  quotient : Nat
  remainder : Nat
  deriving DecidableEq, Repr

/-- The unsigned divider: normalise, four half-limb steps from a zero remainder, most significant
half-limb first, then de-normalise the remainder (R82 to R84). DESIGN CHOICE (log 16): where P-QFIT-U
is false and the divisor is not zero, the numbers here are fillers ("what comes out is not
specified", `93_implementation_defined.md` U2). -/
def divuDatapath (n : Double) (d : Limb) : Except Refusal DivResult :=
  let nz := normalise n d
  match divHalf 0 nz.dn (halfLimbOf nz.nn 3) with
  | .error e => .error e
  | .ok h3 =>
    match divHalf h3.r nz.dn (halfLimbOf nz.nn 2) with
    | .error e => .error e
    | .ok h2 =>
      match divHalf h2.r nz.dn (halfLimbOf nz.nn 1) with
      | .error e => .error e
      | .ok h1 =>
        match divHalf h1.r nz.dn (halfLimbOf nz.nn 0) with
        | .error e => .error e
        | .ok h0 =>
          .ok ⟨h3.q, h2.q, h1.q, h0.q, h1.q * 2 ^ 64 + h0.q, h0.r / 2 ^ nz.z⟩

/-- The magnitude of a dividend: negated across both limbs if its sign bit is set (R86). -/
def magnitudeDouble (v : Double) : Double :=
  if v.getLsbD 255 then bv 256 (2 ^ 256 - (U v : Int)) else v

/-- The magnitude of a divisor (R86). -/
def magnitudeLimb (v : Limb) : Limb :=
  if v.getLsbD 127 then bv 128 (2 ^ 128 - (U v : Int)) else v

/-- The 128-bit negate that restores a sign (R86). -/
def negateLimbIf (c : Bool) (v : Limb) : Limb := if c then bv 128 (2 ^ 128 - (U v : Int)) else v

/-- The signed divider: the unsigned divider on the magnitudes, then the signs restored (R86). It
gives the quotient and the remainder. Where a precondition of DIVS is false and the divisor is not
zero they are fillers (U3; log 16). -/
def divsDatapath (n : Double) (d : Limb) : Except Refusal (Limb × Limb) :=
  let sn := n.getLsbD 255
  let sd := d.getLsbD 127
  match divuDatapath (magnitudeDouble n) (magnitudeLimb d) with
  | .error e => .error e
  | .ok u =>
    .ok (negateLimbIf (sn != sd) (bv 128 u.quotient), negateLimbIf sn (bv 128 u.remainder))

/-! ### Shift -/

/-- The cross-limb form of the right shifts (R92): the limbs `(R_HI, R_LO)` for a count of 0 to 128.
`signed` chooses SHRS. DESIGN CHOICE (log 16): R92 has no case for a count above 128
(`93_implementation_defined.md` U4), and the limbs of the count 128 stand there as a filler. -/
def shrLimbs (signed : Bool) (aHi aLo : Limb) (s : Nat) : Limb × Limb :=
  if s = 0 then (aHi, aLo)
  else if s < 128 then
    (if signed then bv 128 (floorShiftInt (S aHi) s) else bv 128 (floorShift (U aHi) s),
     bv 128 (floorShift (U aLo) s + U aHi % 2 ^ s * 2 ^ (128 - s) : Nat))
  else (if signed then copies (aHi.getLsbD 127) else 0#128, aHi)

/-- The `n` top bits of a limb, from bit 127 down. -/
def topBits (v : Limb) (n : Nat) : List Bool := (List.range n).map fun j => v.getLsbD (127 - j)

/-- The cross-limb form of SHLNU and SHLNS (R95): the kept bits and the discarded high bits, for a
count of 0 to 255. DESIGN CHOICE (log 16): a count above 255 is no value of `SH`, and what the last
case gives for it is a filler. -/
def shlnLimbs (aHi aLo : Limb) (s : Nat) : Limb × List Bool :=
  if s = 0 then (aHi, [])
  else if s < 128 then
    (bv 128 (U aHi % 2 ^ (128 - s) * 2 ^ s + floorShift (U aLo) (128 - s) : Nat), topBits aHi s)
  else if s = 128 then (aLo, topBits aHi 128)
  else (bv 128 (U aLo * 2 ^ (s - 128) : Nat), topBits aHi 128 ++ topBits aLo (s - 128))

/-- `OVF` of SHLNU in the cross-limb form: some discarded bit is 1 (R95). -/
def shlnuLimbsOverflow (aHi aLo : Limb) (s : Nat) : Bool := (shlnLimbs aHi aLo s).2.any id

/-- `OVF` of SHLNS in the cross-limb form: some discarded bit differs from `kept[127]` (R95). -/
def shlnsLimbsOverflow (aHi aLo : Limb) (s : Nat) : Bool :=
  (shlnLimbs aHi aLo s).2.any fun b => b != (shlnLimbs aHi aLo s).1.getLsbD 127

/-! ### Add, subtract, negate -/

/-- `(R_HI, R_LO, CARRY)` of ADD, limb-wise (R104). -/
def addLimbs (aHi aLo bHi bLo : Limb) : Limb × Limb × Bool :=
  let s0 := U aLo + U bLo
  let c := s0 / 2 ^ 128
  let s1 := U aHi + U bHi + c
  (bv 128 s1, bv 128 s0, decide (s1 / 2 ^ 128 = 1))

/-- `(R_HI, R_LO, CARRY)` of SUB, limb-wise (R104). -/
def subLimbs (aHi aLo bHi bLo : Limb) : Limb × Limb × Bool :=
  let w := if U aLo < U bLo then 1 else 0
  (bv 128 ((U aHi : Int) - U bHi - (w : Nat)), bv 128 ((U aLo : Int) - U bLo),
    decide (U aHi < U bHi + w))

/-- `(R_HI, R_LO)` of NEG, limb-wise (R104). -/
def negLimbs (aHi aLo : Limb) : Limb × Limb :=
  (bv 128 ((2 ^ 128 - 1 - (U aHi : Int)) + (if U aLo = 0 then 1 else 0)),
   bv 128 (2 ^ 128 - (U aLo : Int)))

end Sys2Proof.Machine
end

