-- ==== Sys2Proof/Safety.lean ====
section
/-! DEFINITION. What counts as a safe run, and the invariant of the machine. -/

namespace Sys2Proof.Machine

/-- The response to the request is defined: the request is illegal (R124), or legal with every
precondition true (R121). -/
abbrev Defined (req : Request) : Prop := requestViolation req = none

/-- The consumer keeps its duties (a), (b), (c) of `70_reset_and_hazards.md` R136 on every request it
has presented: "a consumer must not issue such a request" (R122). -/
abbrev Safe (s : State) : Prop := ∀ req ∈ s.requests, Defined req

/-- No flag is set (R56): the response of an operation that cannot lose information. -/
abbrev NoFlags (r : Response) : Prop := r.ovf = false ∧ r.carry = false ∧ r.ill = false

/-- A response whose `ILL` is 1 is the response of R124 and no other. -/
abbrev IllMeansIllegal (r : Response) : Prop :=
  r.ill = true → r.rLo = 0#128 ∧ r.rHi = 0#128 ∧ r.ovf = false ∧ r.carry = false

/-- The invariant: no request is in flight during reset (R135), and every response with `ILL = 1` is
the illegal-request response (R124). -/
structure Inv (s : State) : Prop where
  noneInFlightDuringReset : s.inReset = true → s.requests = []
  illMeansIllegal : ∀ r ∈ s.responses, IllMeansIllegal r

end Sys2Proof.Machine
end

