-- ==== Sys2Proof/WellFormed.lean ====
section
/-! DEFINITION. Which terms of `Instr` are instructions: the one check is that a shift count fits
the 8-bit field `SH` (`30_encoding.md` R52). The data operands carry their width in their type
(`20_memory.md` R43). The preconditions of `60_exceptions.md` R121 are NOT part of this: a request
that breaks one is a legal request. -/

namespace Sys2Proof

/-- The count is a value of the field `SH`: "0 to 255" (R52). -/
def shiftCountFits (sh : Nat) : Bool := decide (sh < 256)

/-- The instruction is one that some request encodes. -/
def Instr.wellFormed : Instr → Bool
  | .mulu _ _ => true
  | .muls _ _ => true
  | .divu _ _ _ => true
  | .divs _ _ _ => true
  | .shru _ _ sh => shiftCountFits sh
  | .shrs _ _ sh => shiftCountFits sh
  | .shlnu _ _ sh => shiftCountFits sh
  | .shlns _ _ sh => shiftCountFits sh
  | .add _ _ _ _ => true
  | .sub _ _ _ _ => true
  | .neg _ _ => true
  | .sext _ => true

end Sys2Proof
end

