-- ==== Sys2Proof/Certificates/Slice0/Obligations.lean ====
section
/-! DEFINITION. The statements for the provers. A response `r` to an instruction run in state `s`
leaves `{ s with responses := s.responses ++ [r] }`: that equation of whole states is the frame (no
other piece of state changes) and the completion at once. -/

open Sys2Proof Sys2Proof.Machine

/-! ### The twelve instructions (`30_encoding.md` R53, R54 and the rule of each) -/

/-- R70, MULU: every request with `OP = 0` and `RSV = 0` decodes to it, whatever its other fields hold;
it always completes and its 256-bit response is the exact product, with no flag. -/
def Obligations.MuluGivesExactProduct : Prop :=
  (∀ req : Request, U req.ctrl % 256 = 0x0 → decode req = .ok (.mulu req.aLo req.bLo)) ∧
  ∀ (s : State) (aLo bLo : Limb), ∃ r : Response,
    exec (.mulu aLo bLo) s = .next { s with responses := s.responses ++ [r] } ∧
    U (double r.rHi r.rLo) = U aLo * U bLo ∧ NoFlags r

/-- R71, MULS: as MULU, on the signed readings. -/
def Obligations.MulsGivesExactSignedProduct : Prop :=
  (∀ req : Request, U req.ctrl % 256 = 0x1 → decode req = .ok (.muls req.aLo req.bLo)) ∧
  ∀ (s : State) (aLo bLo : Limb), ∃ r : Response,
    exec (.muls aLo bLo) s = .next { s with responses := s.responses ++ [r] } ∧
    S (double r.rHi r.rLo) = S aLo * S bLo ∧ NoFlags r

/-- R80, DIVU: under P-DIVZERO and P-QFIT-U it completes; `R_LO` is the quotient and `R_HI` the
remainder, `dividend == quotient * divisor + remainder` and `remainder < divisor`, with no flag. -/
def Obligations.DivuGivesQuotientAndRemainder : Prop :=
  (∀ req : Request, U req.ctrl % 256 = 0x2 → decode req = .ok (.divu req.aHi req.aLo req.bLo)) ∧
  ∀ (s : State) (aHi aLo bLo : Limb), U bLo ≠ 0 → U aHi < U bLo → ∃ r : Response,
    exec (.divu aHi aLo bLo) s = .next { s with responses := s.responses ++ [r] } ∧
    U (double aHi aLo) = U r.rLo * U bLo + U r.rHi ∧ U r.rHi < U bLo ∧ NoFlags r

/-- R81, DIVS: under P-DIVZERO and P-QFIT-S it completes; the quotient in `R_LO` rounds toward zero,
the remainder in `R_HI` is smaller than the divisor and is zero or has the dividend's sign; a quotient
that is not zero is positive iff dividend and divisor have the same sign; no flag. -/
def Obligations.DivsRoundsTowardZero : Prop :=
  (∀ req : Request, U req.ctrl % 256 = 0x3 → decode req = .ok (.divs req.aHi req.aLo req.bLo)) ∧
  ∀ (s : State) (aHi aLo bLo : Limb), S bLo ≠ 0 →
    -2 ^ 127 ≤ (S (double aHi aLo)).tdiv (S bLo) →
    (S (double aHi aLo)).tdiv (S bLo) ≤ 2 ^ 127 - 1 → ∃ r : Response,
      exec (.divs aHi aLo bLo) s = .next { s with responses := s.responses ++ [r] } ∧
      S r.rLo = (S (double aHi aLo)).tdiv (S bLo) ∧
      S (double aHi aLo) = S r.rLo * S bLo + S r.rHi ∧
      |S r.rHi| < |S bLo| ∧
      (S r.rHi = 0 ∨ (S r.rHi < 0 ↔ S (double aHi aLo) < 0)) ∧
      (S r.rLo ≠ 0 → (0 < S r.rLo ↔ (S (double aHi aLo) < 0 ↔ S bLo < 0))) ∧ NoFlags r

/-- R90, SHRU: for a count of at most 128 it completes with `floor(x / 2^s)`; zeros enter at bit 255;
no flag. -/
def Obligations.ShruShiftsRightLogically : Prop :=
  (∀ req : Request, U req.ctrl % 256 = 0x4 →
    decode req = .ok (.shru req.aHi req.aLo (U req.ctrl / 256))) ∧
  ∀ (s : State) (aHi aLo : Limb) (sh : Nat), sh ≤ 128 → ∃ r : Response,
    exec (.shru aHi aLo sh) s = .next { s with responses := s.responses ++ [r] } ∧
    U (double r.rHi r.rLo) = U (double aHi aLo) / 2 ^ sh ∧
    (∀ i < 256, (double r.rHi r.rLo).getLsbD i = (double aHi aLo).getLsbD (i + sh)) ∧ NoFlags r

/-- R91, SHRS: for a count of at most 128 it completes with `floor(x / 2^s)` of the signed value (the
divisor is positive, so Lean's `/` on integers is the floor); copies of `A[255]` enter at bit 255; no
flag. -/
def Obligations.ShrsShiftsRightArithmetically : Prop :=
  (∀ req : Request, U req.ctrl % 256 = 0x5 →
    decode req = .ok (.shrs req.aHi req.aLo (U req.ctrl / 256))) ∧
  ∀ (s : State) (aHi aLo : Limb) (sh : Nat), sh ≤ 128 → ∃ r : Response,
    exec (.shrs aHi aLo sh) s = .next { s with responses := s.responses ++ [r] } ∧
    S (double r.rHi r.rLo) = S (double aHi aLo) / 2 ^ sh ∧
    (∀ i < 256, (double r.rHi r.rLo).getLsbD i =
      if i + sh < 256 then (double aHi aLo).getLsbD (i + sh)
      else (double aHi aLo).getLsbD 255) ∧ NoFlags r

/-- R93, SHLNU: for every count of the field `SH` it completes; the kept bits are those at 255 to 128
of the shifted value, which are bits `255 - s` down to `128 - s` of `A`; `R_HI` is zero; `OVF` is set
exactly when the window value does not fit, that is, when some discarded high bit is 1. -/
def Obligations.ShlnuKeepsTheWindow : Prop :=
  (∀ req : Request, U req.ctrl % 256 = 0x6 →
    decode req = .ok (.shlnu req.aHi req.aLo (U req.ctrl / 256))) ∧
  ∀ (s : State) (aHi aLo : Limb) (sh : Nat), sh < 256 → ∃ r : Response,
    exec (.shlnu aHi aLo sh) s = .next { s with responses := s.responses ++ [r] } ∧
    U r.rLo = U (double aHi aLo) * 2 ^ sh / 2 ^ 128 % 2 ^ 128 ∧
    (∀ i < 128, r.rLo.getLsbD i =
      (decide (sh ≤ i + 128) && (double aHi aLo).getLsbD (i + 128 - sh))) ∧
    r.rHi = 0#128 ∧
    (r.ovf = true ↔ 2 ^ 128 ≤ U (double aHi aLo) * 2 ^ sh / 2 ^ 128) ∧
    (r.ovf = true ↔ ∃ j, 256 - sh ≤ j ∧ j < 256 ∧ (double aHi aLo).getLsbD j = true) ∧
    r.carry = false ∧ r.ill = false

/-- R94, SHLNS: for every count of the field `SH` it completes; it keeps the same bits as SHLNU; `R_HI`
is the sign extension of `R_LO`; `OVF` is set exactly when the signed window value does not fit, that
is, when some discarded high bit differs from the top kept bit; when `OVF` is clear the response,
read as signed, is that value. -/
def Obligations.ShlnsKeepsTheWindow : Prop :=
  (∀ req : Request, U req.ctrl % 256 = 0x7 →
    decode req = .ok (.shlns req.aHi req.aLo (U req.ctrl / 256))) ∧
  ∀ (s : State) (aHi aLo : Limb) (sh : Nat), sh < 256 → ∃ r : Response,
    exec (.shlns aHi aLo sh) s = .next { s with responses := s.responses ++ [r] } ∧
    (U r.rLo : Int) = S (double aHi aLo) * 2 ^ sh / 2 ^ 128 % 2 ^ 128 ∧
    (∀ i < 128, r.rLo.getLsbD i =
      (decide (sh ≤ i + 128) && (double aHi aLo).getLsbD (i + 128 - sh))) ∧
    (∀ i < 128, r.rHi.getLsbD i = r.rLo.getLsbD 127) ∧
    (r.ovf = true ↔ S (double aHi aLo) * 2 ^ sh / 2 ^ 128 < -2 ^ 127 ∨
      2 ^ 127 - 1 < S (double aHi aLo) * 2 ^ sh / 2 ^ 128) ∧
    (r.ovf = true ↔ ∃ j, 256 - sh ≤ j ∧ j < 256 ∧
      (double aHi aLo).getLsbD j ≠ r.rLo.getLsbD 127) ∧
    (r.ovf = false → S (double r.rHi r.rLo) = S (double aHi aLo) * 2 ^ sh / 2 ^ 128) ∧
    r.carry = false ∧ r.ill = false

/-- R100, ADD: it always completes with the sum wrapped to 256 bits; `CARRY` is the carry out of bit
255; `OVF` is set exactly when the signed sum is out of range, in bits `A[255] = B[255]` and
`R[255] != A[255]`. -/
def Obligations.AddWrapsAndFlags : Prop :=
  (∀ req : Request, U req.ctrl % 256 = 0x8 →
    decode req = .ok (.add req.aHi req.aLo req.bHi req.bLo)) ∧
  ∀ (s : State) (aHi aLo bHi bLo : Limb), ∃ r : Response,
    exec (.add aHi aLo bHi bLo) s = .next { s with responses := s.responses ++ [r] } ∧
    U (double r.rHi r.rLo) = (U (double aHi aLo) + U (double bHi bLo)) % 2 ^ 256 ∧
    (r.carry = true ↔ 2 ^ 256 ≤ U (double aHi aLo) + U (double bHi bLo)) ∧
    (r.ovf = true ↔ S (double aHi aLo) + S (double bHi bLo) < -2 ^ 255 ∨
      2 ^ 255 - 1 < S (double aHi aLo) + S (double bHi bLo)) ∧
    (r.ovf = true ↔ aHi.getLsbD 127 = bHi.getLsbD 127 ∧ r.rHi.getLsbD 127 ≠ aHi.getLsbD 127) ∧
    r.ill = false

/-- R101, SUB: it always completes with the difference wrapped to 256 bits; `CARRY` is the borrow;
`OVF` is set exactly when the signed difference is out of range, in bits `A[255] != B[255]` and
`R[255] != A[255]`. -/
def Obligations.SubWrapsAndFlags : Prop :=
  (∀ req : Request, U req.ctrl % 256 = 0x9 →
    decode req = .ok (.sub req.aHi req.aLo req.bHi req.bLo)) ∧
  ∀ (s : State) (aHi aLo bHi bLo : Limb), ∃ r : Response,
    exec (.sub aHi aLo bHi bLo) s = .next { s with responses := s.responses ++ [r] } ∧
    (U (double r.rHi r.rLo) : Int) =
      ((U (double aHi aLo) : Int) - (U (double bHi bLo) : Int)) % 2 ^ 256 ∧
    (r.carry = true ↔ U (double aHi aLo) < U (double bHi bLo)) ∧
    (r.ovf = true ↔ S (double aHi aLo) - S (double bHi bLo) < -2 ^ 255 ∨
      2 ^ 255 - 1 < S (double aHi aLo) - S (double bHi bLo)) ∧
    (r.ovf = true ↔ aHi.getLsbD 127 ≠ bHi.getLsbD 127 ∧ r.rHi.getLsbD 127 ≠ aHi.getLsbD 127) ∧
    r.ill = false

/-- R102, NEG: it always completes with the wrapping negate, which is complement and add one; `CARRY`
is set exactly when the operand is not zero; `OVF` exactly when it is the `DSMIN` pattern. -/
def Obligations.NegWrapsAndFlags : Prop :=
  (∀ req : Request, U req.ctrl % 256 = 0xA → decode req = .ok (.neg req.aHi req.aLo)) ∧
  ∀ (s : State) (aHi aLo : Limb), ∃ r : Response,
    exec (.neg aHi aLo) s = .next { s with responses := s.responses ++ [r] } ∧
    U (double r.rHi r.rLo) = (2 ^ 256 - U (double aHi aLo)) % 2 ^ 256 ∧
    double r.rHi r.rLo = ~~~(double aHi aLo) + 1#256 ∧
    (r.carry = true ↔ U (double aHi aLo) ≠ 0) ∧
    (r.ovf = true ↔ S (double aHi aLo) = -2 ^ 255) ∧
    r.ill = false

/-- R103, SEXT: it always completes; `R_LO` is the operand, `R_HI` is 128 copies of its sign bit, so
the response read as signed is the operand read as signed; no flag. -/
def Obligations.SextExtendsTheSign : Prop :=
  (∀ req : Request, U req.ctrl % 256 = 0xB → decode req = .ok (.sext req.aLo)) ∧
  ∀ (s : State) (aLo : Limb), ∃ r : Response,
    exec (.sext aLo) s = .next { s with responses := s.responses ++ [r] } ∧
    r.rLo = aLo ∧ (∀ i < 128, r.rHi.getLsbD i = aLo.getLsbD 127) ∧
    S (double r.rHi r.rLo) = S aLo ∧ NoFlags r

/-- THE MODEL'S CHOICE (log 2, log 3), from R122: an instruction whose precondition is false still
completes with one response; `ILL` is 0, the other fields are free values, and nothing else changes
but the model's own counter of free values. -/
def Obligations.UndefinedRequestsAreStillAnswered : Prop :=
  (∀ (s : State) (aHi aLo bLo : Limb), U bLo = 0 ∨ U bLo ≤ U aHi → ∃ r : Response,
    exec (.divu aHi aLo bLo) s =
      .next { s with responses := s.responses ++ [r], freeIndex := s.freeIndex + 1 } ∧
    r.ill = false) ∧
  (∀ (s : State) (aHi aLo bLo : Limb), S bLo = 0 ∨
      (S (double aHi aLo)).tdiv (S bLo) < -2 ^ 127 ∨
      2 ^ 127 - 1 < (S (double aHi aLo)).tdiv (S bLo) → ∃ r : Response,
    exec (.divs aHi aLo bLo) s =
      .next { s with responses := s.responses ++ [r], freeIndex := s.freeIndex + 1 } ∧
    r.ill = false) ∧
  (∀ (s : State) (aHi aLo : Limb) (sh : Nat), 128 < sh → ∃ r : Response,
    exec (.shru aHi aLo sh) s =
      .next { s with responses := s.responses ++ [r], freeIndex := s.freeIndex + 1 } ∧
    r.ill = false) ∧
  (∀ (s : State) (aHi aLo : Limb) (sh : Nat), 128 < sh → ∃ r : Response,
    exec (.shrs aHi aLo sh) s =
      .next { s with responses := s.responses ++ [r], freeIndex := s.freeIndex + 1 } ∧
    r.ill = false)

/-! ### Laws that tie operations together -/

/-- R80's equivalence: for a divisor that is not zero, the quotient fits 128 bits iff the dividend's
high limb is less than the divisor. -/
def Obligations.QuotientFitsIffHighLimbLess : Prop :=
  ∀ aHi aLo bLo : Limb, U bLo ≠ 0 →
    (quotientFitsU aHi bLo = true ↔ U (double aHi aLo) / U bLo ≤ 2 ^ 128 - 1)

/-- R105: NEG is `SUB 0, A`; SUB gives the `R` of adding the negation; carry and borrow lose nothing;
with `OVF` clear the signed reading is exact, with it set it is off by 2^256 toward the range. -/
def Obligations.AddSubNegLaws : Prop :=
  ∀ (s : State) (aHi aLo bHi bLo : Limb), ∃ rAdd rSub rNeg rNegB rSum : Response,
    exec (.add aHi aLo bHi bLo) s = .next { s with responses := s.responses ++ [rAdd] } ∧
    exec (.sub aHi aLo bHi bLo) s = .next { s with responses := s.responses ++ [rSub] } ∧
    exec (.neg aHi aLo) s = .next { s with responses := s.responses ++ [rNeg] } ∧
    exec (.sub 0#128 0#128 aHi aLo) s = .next { s with responses := s.responses ++ [rNeg] } ∧
    exec (.neg bHi bLo) s = .next { s with responses := s.responses ++ [rNegB] } ∧
    exec (.add aHi aLo rNegB.rHi rNegB.rLo) s = .next { s with responses := s.responses ++ [rSum] } ∧
    rSum.rHi = rSub.rHi ∧ rSum.rLo = rSub.rLo ∧
    U (double rAdd.rHi rAdd.rLo) + rAdd.carry.toNat * 2 ^ 256 =
      U (double aHi aLo) + U (double bHi bLo) ∧
    (U (double rSub.rHi rSub.rLo) : Int) - (rSub.carry.toNat : Int) * 2 ^ 256 =
      (U (double aHi aLo) : Int) - (U (double bHi bLo) : Int) ∧
    (rAdd.ovf = false →
      S (double rAdd.rHi rAdd.rLo) = S (double aHi aLo) + S (double bHi bLo)) ∧
    (rAdd.ovf = true → S (double rAdd.rHi rAdd.rLo) = S (double aHi aLo) + S (double bHi bLo) +
      (if S (double aHi aLo) + S (double bHi bLo) < 0 then 2 ^ 256 else -2 ^ 256)) ∧
    (rSub.ovf = false →
      S (double rSub.rHi rSub.rLo) = S (double aHi aLo) - S (double bHi bLo)) ∧
    (rSub.ovf = true → S (double rSub.rHi rSub.rLo) = S (double aHi aLo) - S (double bHi bLo) +
      (if S (double aHi aLo) - S (double bHi bLo) < 0 then 2 ^ 256 else -2 ^ 256)) ∧
    (rNeg.ovf = false → S (double rNeg.rHi rNeg.rLo) = -S (double aHi aLo)) ∧
    (rNeg.ovf = true → S (double rNeg.rHi rNeg.rLo) = -S (double aHi aLo) - 2 ^ 256)

/-- R71: the low limb of MULS is the low limb MULU gives for the same patterns; both multiplies are
commutative. -/
def Obligations.MultiplyLowLimbsAgree : Prop :=
  ∀ (s : State) (aLo bLo : Limb), ∃ rU rS : Response,
    exec (.mulu aLo bLo) s = .next { s with responses := s.responses ++ [rU] } ∧
    exec (.mulu bLo aLo) s = .next { s with responses := s.responses ++ [rU] } ∧
    exec (.muls aLo bLo) s = .next { s with responses := s.responses ++ [rS] } ∧
    exec (.muls bLo aLo) s = .next { s with responses := s.responses ++ [rS] } ∧
    rU.rLo = rS.rLo

/-- R96, "Shift boundary": a right shift by 0 changes nothing; by 128 it moves the high limb into the
low limb and zeroes or sign-extends the high limb. -/
def Obligations.RightShiftBoundary : Prop :=
  ∀ (s : State) (aHi aLo : Limb), ∃ r128U r128S : Response,
    exec (.shru aHi aLo 0) s =
      .next { s with responses := s.responses ++ [⟨aLo, aHi, false, false, false⟩] } ∧
    exec (.shrs aHi aLo 0) s =
      .next { s with responses := s.responses ++ [⟨aLo, aHi, false, false, false⟩] } ∧
    exec (.shru aHi aLo 128) s = .next { s with responses := s.responses ++ [r128U] } ∧
    r128U.rLo = aHi ∧ r128U.rHi = 0#128 ∧
    exec (.shrs aHi aLo 128) s = .next { s with responses := s.responses ++ [r128S] } ∧
    r128S.rLo = aHi ∧ (∀ i < 128, r128S.rHi.getLsbD i = aHi.getLsbD 127)

/-- R96, the relations between the narrowing shifts and the right shifts: for a count of at most 128
the window is the low limb of the right shift by `128 - s`, and `OVF` says whether its high limb is
anything but the extension of the low limb. -/
def Obligations.NarrowingShiftIsARightShift : Prop :=
  ∀ (s : State) (aHi aLo : Limb) (sh : Nat), sh ≤ 128 → ∃ rNu rNs rRu rRs : Response,
    exec (.shlnu aHi aLo sh) s = .next { s with responses := s.responses ++ [rNu] } ∧
    exec (.shru aHi aLo (128 - sh)) s = .next { s with responses := s.responses ++ [rRu] } ∧
    exec (.shlns aHi aLo sh) s = .next { s with responses := s.responses ++ [rNs] } ∧
    exec (.shrs aHi aLo (128 - sh)) s = .next { s with responses := s.responses ++ [rRs] } ∧
    rNu.rLo = rRu.rLo ∧ (rNu.ovf = true ↔ rRu.rHi ≠ 0#128) ∧
    rNs.rLo = rRs.rLo ∧
    (rNs.ovf = true ↔ ∃ i < 128, rRs.rHi.getLsbD i ≠ rRs.rLo.getLsbD 127)

/-- R93: `OVF` of SHLNU is monotonic in the count. -/
def Obligations.ShlnuOverflowIsMonotonic : Prop :=
  ∀ (s : State) (aHi aLo : Limb) (sh sh' : Nat), sh ≤ sh' → ∃ r r' : Response,
    exec (.shlnu aHi aLo sh) s = .next { s with responses := s.responses ++ [r] } ∧
    exec (.shlnu aHi aLo sh') s = .next { s with responses := s.responses ++ [r'] } ∧
    (r.ovf = true → r'.ovf = true)

/-- R114: the low `F` bits that a right shift of `F` drops are returned, left-aligned, by SHLNU with
the count `256 - F`; its `R_LO` is zero exactly when the right shift dropped nothing but zeros. -/
def Obligations.DroppedLowBitsCanBeFetched : Prop :=
  ∀ (s : State) (aHi aLo : Limb) (f : Nat), 1 ≤ f → f ≤ 128 → ∃ r rShift : Response,
    exec (.shlnu aHi aLo (256 - f)) s = .next { s with responses := s.responses ++ [r] } ∧
    exec (.shru aHi aLo f) s = .next { s with responses := s.responses ++ [rShift] } ∧
    U r.rLo = U (double aHi aLo) % 2 ^ f * 2 ^ (128 - f) ∧
    (r.rLo = 0#128 ↔ U (double rShift.rHi rShift.rLo) * 2 ^ f = U (double aHi aLo))

/-- R115: the direction of a signed overflow of SHLNS, ADD and SUB is the sign of operand `A`, so that
a saturating policy can be implemented from the response and the operand. -/
def Obligations.OverflowDirectionIsTheSignOfA : Prop :=
  ∀ (s : State) (aHi aLo bHi bLo : Limb) (sh : Nat), ∃ rN rA rS : Response,
    exec (.shlns aHi aLo sh) s = .next { s with responses := s.responses ++ [rN] } ∧
    exec (.add aHi aLo bHi bLo) s = .next { s with responses := s.responses ++ [rA] } ∧
    exec (.sub aHi aLo bHi bLo) s = .next { s with responses := s.responses ++ [rS] } ∧
    (rN.ovf = true → if aHi.getLsbD 127 then S (double aHi aLo) * 2 ^ sh / 2 ^ 128 < -2 ^ 127
      else 2 ^ 127 - 1 < S (double aHi aLo) * 2 ^ sh / 2 ^ 128) ∧
    (rA.ovf = true → if aHi.getLsbD 127 then S (double aHi aLo) + S (double bHi bLo) < -2 ^ 255
      else 2 ^ 255 - 1 < S (double aHi aLo) + S (double bHi bLo)) ∧
    (rS.ovf = true → if aHi.getLsbD 127 then S (double aHi aLo) - S (double bHi bLo) < -2 ^ 255
      else 2 ^ 255 - 1 < S (double aHi aLo) - S (double bHi bLo))

/-- R22, R23: the value of a limb pair is `hi * 2^128 + lo`, with the sign in `hi` for the signed
reading. -/
def Obligations.ValueOfALimbPair : Prop :=
  ∀ hi lo : Limb, U (double hi lo) = U hi * 2 ^ 128 + U lo ∧
    S (double hi lo) = S hi * 2 ^ 128 + (U lo : Int)

/-! ### The whole machine -/

/-- R28, R111, R122: no instruction sets `ILL`, whether its preconditions hold or not (that a false
precondition is answered with free values is the model's choice, log 2, log 3); an instruction whose
preconditions hold sets `OVF` only if it is SHLNU, SHLNS, ADD, SUB or NEG, and `CARRY` only if it is
ADD, SUB or NEG, and changes nothing but the responses. -/
def Obligations.WhichInstructionsSetFlags : Prop :=
  ∀ (i : Instr) (s : State), ∃ (r : Response) (n : Nat),
    exec i s = .next { s with responses := s.responses ++ [r], freeIndex := n } ∧ r.ill = false ∧
    (violation i = none → n = s.freeIndex ∧
      (r.ovf = true → mnemonic i ∈ ["SHLNU", "SHLNS", "ADD", "SUB", "NEG"]) ∧
      (r.carry = true → mnemonic i ∈ ["ADD", "SUB", "NEG"]))

/-- R138, R46: a step that takes a request answers it with exactly one response, and changes nothing
else but the model's counter of free values (log 3), and not even that if the request is defined; so
no step ever stops. THE MODEL'S CHOICES in that: a request whose precondition is false is answered with
free values and does not stop the step (log 2), and a step with no request to take, of which R138 and
R46 say nothing, answers a next state (log 4). -/
def Obligations.EveryRequestIsAnsweredOnce : Prop :=
  (∀ s : State, ∃ t, step s = .next t) ∧
  ∀ (s : State) (req : Request) (rest : List Request), s.inReset = false →
    s.requests = req :: rest → ∃ (r : Response) (n : Nat),
      step s = .next { s with requests := rest, responses := s.responses ++ [r], freeIndex := n } ∧
      (Defined req → n = s.freeIndex)

/-- The frame of the step around `exec`: when the request taken next decodes to `i`, the step is
`exec i` at the state without that request. -/
def Obligations.StepRunsTheDecodedRequest : Prop :=
  ∀ (s : State) (req : Request) (rest : List Request) (i : Instr), s.inReset = false →
    s.requests = req :: rest → decode req = .ok i →
      step s = exec i { s with requests := rest }

/-- THE MODEL'S CHOICE (log 6, log 7): a table word placed by `withFetchWord` is the instruction the
very next step runs. -/
def Obligations.PlacedWordRunsNext : Prop :=
  ∀ (s : State) (nbits w : Nat) (i : Instr), decodeTableWord nbits w = some i →
    step (s.withFetchWord nbits w) = exec i { s with inReset := false }

/-- R124: an illegal request is answered, whatever its data fields hold, with `R_LO = R_HI = 0`,
`OVF = CARRY = 0`, `ILL = 1`, and nothing else happens; every legal request has `ILL = 0`. -/
def Obligations.IllegalRequestResponse : Prop :=
  ∀ (s : State) (req : Request) (rest : List Request), s.inReset = false →
    s.requests = req :: rest →
    ((U req.ctrl / 16 % 16 ≠ 0 ∨ 12 ≤ U req.ctrl % 16) →
      step s = .next { s with requests := rest,
                              responses := s.responses ++ [⟨0#128, 0#128, false, false, true⟩] }) ∧
    (U req.ctrl / 16 % 16 = 0 → U req.ctrl % 16 < 12 → ∃ (t : State) (r : Response),
      step s = .next t ∧ t.responses = s.responses ++ [r] ∧ r.ill = false)

/-- R62: decode is total and reads `CTRL` only to choose the operation. -/
def Obligations.DecodeIsTotal : Prop :=
  ∀ req : Request,
    (U req.ctrl / 16 % 16 ≠ 0 → ∃ e, decode req = .error e) ∧
    (U req.ctrl / 16 % 16 = 0 → 12 ≤ U req.ctrl % 16 → ∃ e, decode req = .error e) ∧
    (U req.ctrl / 16 % 16 = 0 → U req.ctrl % 16 < 12 → ∃ i, decode req = .ok i ∧
      mnemonic i = ["MULU", "MULS", "DIVU", "DIVS", "SHRU", "SHRS", "SHLNU", "SHLNS", "ADD", "SUB",
        "NEG", "SEXT"].getD (U req.ctrl % 16) "")

/-- R54: a control word selects at most one row of the opcode map, and decode gives an instruction
exactly when some row is selected, namely that row's. -/
def Obligations.OpcodeMapIsUnambiguous : Prop :=
  (∀ row ∈ opcodeTable, ∀ row' ∈ opcodeTable, ∀ c : BitVec 16,
    row.selects c = true → row'.selects c = true → row = row') ∧
  (∀ row ∈ opcodeTable, ∀ req : Request, row.selects req.ctrl = true →
    ∃ i, decode req = .ok i ∧ mnemonic i = row.mnemonic) ∧
  (∀ (req : Request) (i : Instr), decode req = .ok i →
    ∃ row ∈ opcodeTable, row.selects req.ctrl = true ∧ row.mnemonic = mnemonic i)

/-- R53: a field an operation ignores may hold any value: the request decodes to the same
instruction (so, by `StepRunsTheDecodedRequest`, it gets the same response). -/
def Obligations.IgnoredFieldsDoNotMatter : Prop :=
  ∀ (req : Request) (c : BitVec 16) (x y z : Limb), U c % 256 = U req.ctrl % 256 →
    (U req.ctrl % 256 ≤ 1 → decode { req with ctrl := c, aHi := x, bHi := y } = decode req) ∧
    (2 ≤ U req.ctrl % 256 → U req.ctrl % 256 ≤ 3 →
      decode { req with ctrl := c, bHi := y } = decode req) ∧
    (4 ≤ U req.ctrl % 256 → U req.ctrl % 256 ≤ 7 →
      decode { req with bLo := x, bHi := y } = decode req) ∧
    (8 ≤ U req.ctrl % 256 → U req.ctrl % 256 ≤ 9 → decode { req with ctrl := c } = decode req) ∧
    (U req.ctrl % 256 = 10 → decode { req with ctrl := c, bLo := x, bHi := y } = decode req) ∧
    (U req.ctrl % 256 = 11 →
      decode { req with ctrl := c, aHi := z, bLo := x, bHi := y } = decode req)

/-- R45: the response to a defined request is the same whatever came before it and whatever is in
flight with it. -/
def Obligations.ResponseIndependentOfHistory : Prop :=
  ∀ (s s' : State) (req : Request) (rest rest' : List Request), s.inReset = false →
    s'.inReset = false → s.requests = req :: rest → s'.requests = req :: rest' → Defined req →
    ∃ r : Response,
      step s = .next { s with requests := rest, responses := s.responses ++ [r] } ∧
      step s' = .next { s' with requests := rest', responses := s'.responses ++ [r] }

/-- R45, R46, R143: a machine with any list of requests answers them all, in order, one response per
request (the order of the ports is built into State, log 1; a request that is not defined is answered
too, with free values, log 2); and each response to a defined request is the one that a machine fresh
from reset gives to that request alone. -/
def Obligations.StreamIsAnsweredInOrder : Prop :=
  ∀ s : State, s.inReset = false → ∃ (rs : List Response) (n : Nat),
    Host.Core.run Sys2Proof.core s.requests.length s =
      .next ({ s with requests := [], responses := s.responses ++ rs, freeIndex := n } : State) ∧
    rs.length = s.requests.length ∧
    ∀ (k : Nat) (req : Request) (r : Response), s.requests[k]? = some req → rs[k]? = some r →
      Defined req → step (present req State.reset) =
        .next { State.reset with responses := [r] }

/-- R135, R142 (the ports are the model's, log 1 and log 5): during reset no request is accepted and
no response is issued; requests in flight are dropped and never answered, and the responses issued
before stand; after reset the first defined request is answered as by a fresh machine. -/
def Obligations.ResetDropsRequestsInFlight : Prop :=
  ∀ (s : State) (req : Request),
    present req (assertReset s) = assertReset s ∧
    step (assertReset s) = .next (assertReset s) ∧
    (releaseReset (assertReset s)).inReset = false ∧
    (releaseReset (assertReset s)).requests = [] ∧
    (releaseReset (assertReset s)).responses = s.responses ∧
    (Defined req → ∃ r : Response,
      step (present req (releaseReset (assertReset s))) =
        .next { releaseReset (assertReset s) with responses := s.responses ++ [r] } ∧
      step (present req State.reset) = .next { State.reset with responses := [r] })

/-- R33, R135: after reset the reset input is released, nothing is pending, nothing has been answered;
and (the model's choice, log 4) a step then changes nothing. -/
def Obligations.ResetLeavesNothingPending : Prop :=
  State.reset.inReset = false ∧ State.reset.requests = [] ∧ State.reset.responses = [] ∧
  step State.reset = .next State.reset

/-- The invariant holds after reset. -/
def Obligations.ResetMeetsTheInvariant : Prop := Inv State.reset

/-- R124, R135 (the ports are the model's, log 1 and log 5): every step, and everything the outside
does, keeps the invariant: nothing is in flight during reset, and a response with `ILL = 1` is the
illegal-request response. -/
def Obligations.InvariantIsKept : Prop :=
  ∀ s : State, Inv s →
    (∀ t, step s = .next t → Inv t) ∧ (∀ req, Inv (present req s)) ∧
    Inv (assertReset s) ∧ Inv (releaseReset s)

/-- R123, R121 (the form of the assertion is the model's choice, log 14): the checked step faults
exactly when the request taken next breaks a precondition, with the fault that names it, and is the
block's own step whenever there is nothing to take or the request taken next breaks none, whatever
stands behind it in the queue; a machine whose consumer keeps its duties goes on keeping them. -/
def Obligations.AssertionOnlyWatches : Prop :=
  (∀ (s : State) (req : Request) (rest : List Request) (f : Fault), s.inReset = false →
    s.requests = req :: rest → (stepChecked s = .fault f ↔ requestViolation req = some f)) ∧
  (∀ s : State, nextViolation s = none → stepChecked s = step s) ∧
  (∀ s : State, s.inReset = true ∨ s.requests = [] → stepChecked s = step s) ∧
  (∀ (s : State) (req : Request) (rest : List Request), s.requests = req :: rest → Defined req →
    stepChecked s = step s) ∧
  (∀ s : State, Safe s → stepChecked s = step s ∧ ∀ t, step s = .next t → Safe t)

/-- R121: the complete list of preconditions, in the spec's own words for each; the other eight
operations have none. (That a zero divisor is named first is the model's choice, log 14.) -/
def Obligations.PreconditionsAreComplete : Prop :=
  (∀ aHi aLo bLo : Limb, violation (.divu aHi aLo bLo) = none ↔ U bLo ≠ 0 ∧ U aHi < U bLo) ∧
  (∀ aHi aLo bLo : Limb, violation (.divs aHi aLo bLo) = none ↔ U bLo ≠ 0 ∧
    -2 ^ 127 ≤ (S (double aHi aLo)).tdiv (S bLo) ∧
    (S (double aHi aLo)).tdiv (S bLo) ≤ 2 ^ 127 - 1) ∧
  (∀ (aHi aLo : Limb) (sh : Nat), violation (.shru aHi aLo sh) = none ↔ sh ≤ 128) ∧
  (∀ (aHi aLo : Limb) (sh : Nat), violation (.shrs aHi aLo sh) = none ↔ sh ≤ 128) ∧
  (∀ i : Instr, mnemonic i ∉ ["DIVU", "DIVS", "SHRU", "SHRS"] → violation i = none)

/-! ### Encodings -/

/-- R51, R54, R55: a few control words written out from the spec's encoding (one of each family, and two
illegal ones) decode to the instructions they stand for, or to none. THE MODEL'S CHOICE (log 7): a
16-bit table word is `CTRL` and its operands are zero. -/
def Obligations.WordsDecodeAsTheSpecSays : Prop :=
  decodeTableWord 16 0b0000000000000000 = some (.mulu 0#128 0#128) ∧
  decodeTableWord 16 0b0000000000000011 = some (.divs 0#128 0#128 0#128) ∧
  decodeTableWord 16 0b0100000000000100 = some (.shru 0#128 0#128 64) ∧
  decodeTableWord 16 0b1111111100000111 = some (.shlns 0#128 0#128 255) ∧
  decodeTableWord 16 0b0000000000001001 = some (.sub 0#128 0#128 0#128 0#128) ∧
  decodeTableWord 16 0b0000000000001011 = some (.sext 0#128) ∧
  decodeTableWord 16 0b0000000000001100 = none ∧
  decodeTableWord 16 0b1000000000010100 = none

/-- Decode and encode agree: for every well-formed instruction, its canonical request, and the 66
bytes of that request, decode to it again. -/
def Obligations.DecodeEncodeRoundTrip : Prop :=
  ∀ i : Instr, i.wellFormed = true →
    decode (encode i) = .ok i ∧ decodeBytes (encodeBytes i) = .ok i

/-- What decode gives is well formed, and encoding it gives the canonical request of R57, operation by
operation: every field that R53 says the operation reads is the request's own, `SH` among them for
the four shifts, and every field it ignores is zero. -/
def Obligations.DecodedInstructionsEncodeCanonically : Prop :=
  ∀ (req : Request) (i : Instr), decode req = .ok i →
    i.wellFormed = true ∧ U req.ctrl % 256 < 12 ∧
    (U req.ctrl % 256 = 0x0 → encode i = ⟨0x0000#16, req.aLo, 0#128, req.bLo, 0#128⟩) ∧
    (U req.ctrl % 256 = 0x1 → encode i = ⟨0x0001#16, req.aLo, 0#128, req.bLo, 0#128⟩) ∧
    (U req.ctrl % 256 = 0x2 → encode i = ⟨0x0002#16, req.aLo, req.aHi, req.bLo, 0#128⟩) ∧
    (U req.ctrl % 256 = 0x3 → encode i = ⟨0x0003#16, req.aLo, req.aHi, req.bLo, 0#128⟩) ∧
    (0x4 ≤ U req.ctrl % 256 → U req.ctrl % 256 ≤ 0x7 →
      encode i = ⟨req.ctrl, req.aLo, req.aHi, 0#128, 0#128⟩) ∧
    (U req.ctrl % 256 = 0x8 → encode i = ⟨0x0008#16, req.aLo, req.aHi, req.bLo, req.bHi⟩) ∧
    (U req.ctrl % 256 = 0x9 → encode i = ⟨0x0009#16, req.aLo, req.aHi, req.bLo, req.bHi⟩) ∧
    (U req.ctrl % 256 = 0xA → encode i = ⟨0x000A#16, req.aLo, req.aHi, 0#128, 0#128⟩) ∧
    (U req.ctrl % 256 = 0xB → encode i = ⟨0x000B#16, req.aLo, 0#128, 0#128, 0#128⟩)

/-- R57: packing and unpacking a request are inverse, with each field at its bits. -/
def Obligations.PackedRequestLayout : Prop :=
  (∀ req : Request, unpackRequest (packRequest req) = req) ∧
  (∀ v : BitVec 528, packRequest (unpackRequest v) = v) ∧
  ∀ req : Request, U (packRequest req) = U req.ctrl * 2 ^ 512 + U req.bHi * 2 ^ 384 +
    U req.bLo * 2 ^ 256 + U req.aHi * 2 ^ 128 + U req.aLo

/-- R58: packing and unpacking a response are inverse; the three flags are the digit above bit 255. -/
def Obligations.PackedResponseLayout : Prop :=
  (∀ r : Response, unpackResponse (packResponse r) = r) ∧
  (∀ v : BitVec 259, packResponse (unpackResponse v) = v) ∧
  ∀ r : Response, U (packResponse r) =
    (r.ovf.toNat + 2 * r.carry.toNat + 4 * r.ill.toNat) * 2 ^ 256 + U (double r.rHi r.rLo)

/-- R42: a request is 66 bytes, a response 33, byte `k` holding bits `8k+7` down to `8k`; the bytes of
a request spell it, and 66 bytes are the bytes of the request they spell. -/
def Obligations.SerialisedFormsAreLittleEndian : Prop :=
  (∀ req : Request, (requestBytes req).length = 66 ∧ requestOfBytes (requestBytes req) = some req ∧
    ∀ k < 66, (requestBytes req)[k]? = some ((packRequest req).extractLsb' (8 * k) 8)) ∧
  (∀ (bs : List Byte) (req : Request), requestOfBytes bs = some req → requestBytes req = bs) ∧
  ∀ r : Response, (responseBytes r).length = 33 ∧
    ∀ k < 33, (responseBytes r)[k]? = some ((packResponse r).extractLsb' (8 * k) 8)

/-! ### The reference datapaths meet the contract -/

/-- R72, R75: the unsigned three-column multiply gives the exact product, and its columns keep the
bounds: 128 bits, 129 bits, an explicit carry of 0 or 1, 128 bits (the columns are unbounded integers
in the model, log 11). -/
def Obligations.MuluDatapathMeetsContract : Prop :=
  ∀ a b : Limb, U (muluDatapath a b) = U a * U b ∧
    (muluColumns a b).col0 < 2 ^ 128 ∧ (muluColumns a b).s1 < 2 ^ 129 ∧
    (muluColumns a b).c1 ≤ 1 ∧ (muluColumns a b).col2 < 2 ^ 128

/-- R73: the mixed half-limb multiply is exact. -/
def Obligations.MixedHalfLimbMultiplyIsExact : Prop :=
  ∀ sb u : Half, S (mulSignedUnsigned sb u) = S sb * (U u : Int)

/-- R74: the signed three-column multiply gives the exact signed product, and its columns keep the
bounds (they are unbounded integers in the model, log 11). -/
def Obligations.MulsDatapathMeetsContract : Prop :=
  ∀ a b : Limb, S (mulsDatapath a b) = S a * S b ∧
    -2 ^ 128 < (mulsColumns a b).s1 ∧ (mulsColumns a b).s1 < 2 ^ 129 ∧
    -2 ^ 127 ≤ (mulsColumns a b).col2 ∧ (mulsColumns a b).col2 < 2 ^ 127

/-- R83: the half-limb step. With a normalised divisor and a running remainder below it, the step
divides exactly, the emitted half fits 64 bits, the first estimate is at most 2^64 + 1, and it
overshoots by the number of corrections, at most two. -/
def Obligations.HalfLimbStepDivides : Prop :=
  ∀ r dn next : Nat, 2 ^ 127 ≤ dn → dn < 2 ^ 128 → r < dn → next < 2 ^ 64 → ∃ h : HalfStep,
    divHalf r dn next = .ok h ∧ r * 2 ^ 64 + next = h.q * dn + h.r ∧ h.r < dn ∧ h.q < 2 ^ 64 ∧
    h.estimate ≤ 2 ^ 64 + 1 ∧ h.estimate = h.q + h.corrections ∧ h.corrections ≤ 2

/-- R82, R84: under P-QFIT-U the normalising divider gives the quotient and the remainder of the
contract, and the first two halves it emits are zero (the model runs the four steps of R84, log 11). -/
def Obligations.DivuDatapathMeetsContract : Prop :=
  ∀ aHi aLo bLo : Limb, U aHi < U bLo → ∃ x : DivResult,
    divuDatapath (double aHi aLo) bLo = .ok x ∧ x.q3 = 0 ∧ x.q2 = 0 ∧
    x.quotient = U (double aHi aLo) / U bLo ∧ x.remainder = U (double aHi aLo) % U bLo

/-- R86: under the preconditions of DIVS the divider on the magnitudes gives its quotient and its
remainder. -/
def Obligations.DivsDatapathMeetsContract : Prop :=
  ∀ aHi aLo bLo : Limb, S bLo ≠ 0 → -2 ^ 127 ≤ (S (double aHi aLo)).tdiv (S bLo) →
    (S (double aHi aLo)).tdiv (S bLo) ≤ 2 ^ 127 - 1 → ∃ q r : Limb,
      divsDatapath (double aHi aLo) bLo = .ok (q, r) ∧
      S q = (S (double aHi aLo)).tdiv (S bLo) ∧ S r = (S (double aHi aLo)).tmod (S bLo)

/-- R85, U5 (the refusal is the model's deduction, log 12): the half-limb step refuses a divisor whose
high half-limb is zero, and so does the divider with a zero divisor, while the divider, which
normalises first, refuses no other divisor: normalisation is load-bearing. (A divisor from 2^64 to
2^127 - 1 is not normalised either; U5 does not ask to refuse it, and neither the step's answer to it
nor the divider's outside P-QFIT-U has any content here, log 16.) -/
def Obligations.ZeroHighHalfLimbIsRefused : Prop :=
  (∀ r dn next : Nat, dn < 2 ^ 64 → divHalf r dn next = .error .divisorNotNormalised) ∧
  (∀ n : Double, divuDatapath n 0#128 = .error .divisorNotNormalised) ∧
  ∀ (n : Double) (d : Limb), U d ≠ 0 → ∃ x : DivResult, divuDatapath n d = .ok x

/-- R92: the cross-limb right shifts give the responses of SHRU and SHRS. -/
def Obligations.RightShiftLimbsMeetContract : Prop :=
  ∀ (s : State) (aHi aLo : Limb) (sh : Nat), sh ≤ 128 →
    exec (.shru aHi aLo sh) s = .next { s with responses := s.responses ++
      [⟨(shrLimbs false aHi aLo sh).2, (shrLimbs false aHi aLo sh).1, false, false, false⟩] } ∧
    exec (.shrs aHi aLo sh) s = .next { s with responses := s.responses ++
      [⟨(shrLimbs true aHi aLo sh).2, (shrLimbs true aHi aLo sh).1, false, false, false⟩] }

/-- R95: the cross-limb narrowing shifts give the kept bits and the overflow flags of SHLNU and
SHLNS. -/
def Obligations.NarrowingShiftLimbsMeetContract : Prop :=
  ∀ (s : State) (aHi aLo : Limb) (sh : Nat), sh < 256 → ∃ rU rS : Response,
    exec (.shlnu aHi aLo sh) s = .next { s with responses := s.responses ++ [rU] } ∧
    exec (.shlns aHi aLo sh) s = .next { s with responses := s.responses ++ [rS] } ∧
    rU.rLo = (shlnLimbs aHi aLo sh).1 ∧ rU.ovf = shlnuLimbsOverflow aHi aLo sh ∧
    rS.rLo = (shlnLimbs aHi aLo sh).1 ∧ rS.ovf = shlnsLimbsOverflow aHi aLo sh

/-- R104: the limb-wise adder, subtracter and negater give the results and the carries of ADD, SUB
and NEG. -/
def Obligations.AdderLimbsMeetContract : Prop :=
  ∀ (s : State) (aHi aLo bHi bLo : Limb), ∃ rA rS rN : Response,
    exec (.add aHi aLo bHi bLo) s = .next { s with responses := s.responses ++ [rA] } ∧
    exec (.sub aHi aLo bHi bLo) s = .next { s with responses := s.responses ++ [rS] } ∧
    exec (.neg aHi aLo) s = .next { s with responses := s.responses ++ [rN] } ∧
    (rA.rHi, rA.rLo, rA.carry) = addLimbs aHi aLo bHi bLo ∧
    (rS.rHi, rS.rLo, rS.carry) = subLimbs aHi aLo bHi bLo ∧
    (rN.rHi, rN.rLo) = negLimbs aHi aLo

/-! ### The notation for requests -/

/-- R60: where the operands of each mnemonic go, with every ignored field zero. -/
def Obligations.OperandsGoToTheirPorts : Prop :=
  ∀ (env : Env) (b : Option String) (x y : Op128) (p q : Op256) (vx vy : Limb) (vp vq : Double)
    (c : Nat), evalOp128 env x = some vx → evalOp128 env y = some vy → evalOp256 env p = some vp →
    evalOp256 env q = some vq → c < 256 →
    assemble env ⟨b, .mulu, .limbLimb x y⟩ = some ⟨0x0000#16, vx, 0#128, vy, 0#128⟩ ∧
    assemble env ⟨b, .muls, .limbLimb x y⟩ = some ⟨0x0001#16, vx, 0#128, vy, 0#128⟩ ∧
    assemble env ⟨b, .divu, .doubleLimb p y⟩ = some ⟨0x0002#16, loLimb vp, hiLimb vp, vy, 0#128⟩ ∧
    assemble env ⟨b, .divs, .doubleLimb p y⟩ = some ⟨0x0003#16, loLimb vp, hiLimb vp, vy, 0#128⟩ ∧
    assemble env ⟨b, .shru, .doubleCount p c⟩ =
      some ⟨BitVec.ofNat 16 (c * 256 + 4), loLimb vp, hiLimb vp, 0#128, 0#128⟩ ∧
    assemble env ⟨b, .shrs, .doubleCount p c⟩ =
      some ⟨BitVec.ofNat 16 (c * 256 + 5), loLimb vp, hiLimb vp, 0#128, 0#128⟩ ∧
    assemble env ⟨b, .shlnu, .doubleCount p c⟩ =
      some ⟨BitVec.ofNat 16 (c * 256 + 6), loLimb vp, hiLimb vp, 0#128, 0#128⟩ ∧
    assemble env ⟨b, .shlns, .doubleCount p c⟩ =
      some ⟨BitVec.ofNat 16 (c * 256 + 7), loLimb vp, hiLimb vp, 0#128, 0#128⟩ ∧
    assemble env ⟨b, .add, .doubleDouble p q⟩ =
      some ⟨0x0008#16, loLimb vp, hiLimb vp, loLimb vq, hiLimb vq⟩ ∧
    assemble env ⟨b, .sub, .doubleDouble p q⟩ =
      some ⟨0x0009#16, loLimb vp, hiLimb vp, loLimb vq, hiLimb vq⟩ ∧
    assemble env ⟨b, .neg, .double p⟩ = some ⟨0x000A#16, loLimb vp, hiLimb vp, 0#128, 0#128⟩ ∧
    assemble env ⟨b, .sext, .limb x⟩ = some ⟨0x000B#16, vx, 0#128, 0#128, 0#128⟩

/-- R61, the unsigned pseudo-instructions: each expands to one request whose response is what its
"Use" column says. -/
def Obligations.UnsignedPseudoInstructions : Prop :=
  ∀ (s : State) (env : Env) (b : Option String) (o : Op256) (v : Double),
    evalOp256 env o = some v →
    (∃ (i : Instr) (r : Response), expand env ⟨b, .narrowu, .double o⟩ = some (.request i) ∧
      exec i s = .next { s with responses := s.responses ++ [r] } ∧
      r.rLo = loLimb v ∧ (r.ovf = true ↔ hiLimb v ≠ 0#128)) ∧
    (∀ f ≤ 128, ∃ (i : Instr) (r : Response),
      expand env ⟨b, .rscu, .doubleCount o f⟩ = some (.request i) ∧
      exec i s = .next { s with responses := s.responses ++ [r] } ∧
      U r.rLo = U v / 2 ^ f % 2 ^ 128 ∧ (r.ovf = true ↔ 2 ^ 128 ≤ U v / 2 ^ f)) ∧
    (∀ k ≤ 127, ∃ (i : Instr) (r : Response),
      expand env ⟨b, .shllou, .doubleCount o k⟩ = some (.request i) ∧
      exec i s = .next { s with responses := s.responses ++ [r] } ∧
      U r.rLo = U v * 2 ^ k % 2 ^ 128 ∧ (r.ovf = true ↔ 2 ^ 128 ≤ U v * 2 ^ k))

/-- R61, the signed pseudo-instructions, and those that are no request: CASTS and CASTU change no bit,
ZEXT forms the pair `0 : a`. -/
def Obligations.SignedAndHostPseudoInstructions : Prop :=
  ∀ (s : State) (env : Env) (b : Option String) (o : Op256) (v : Double) (x : Op128) (vx : Limb),
    evalOp256 env o = some v → evalOp128 env x = some vx →
    (∃ (i : Instr) (r : Response), expand env ⟨b, .narrows, .double o⟩ = some (.request i) ∧
      exec i s = .next { s with responses := s.responses ++ [r] } ∧
      r.rLo = loLimb v ∧ (r.ovf = true ↔ S v < -2 ^ 127 ∨ 2 ^ 127 - 1 < S v)) ∧
    (∀ f ≤ 128, ∃ (i : Instr) (r : Response),
      expand env ⟨b, .rscs, .doubleCount o f⟩ = some (.request i) ∧
      exec i s = .next { s with responses := s.responses ++ [r] } ∧
      (U r.rLo : Int) = S v / 2 ^ f % 2 ^ 128 ∧
      (r.ovf = true ↔ S v / 2 ^ f < -2 ^ 127 ∨ 2 ^ 127 - 1 < S v / 2 ^ f)) ∧
    (∀ k ≤ 127, ∃ (i : Instr) (r : Response),
      expand env ⟨b, .shllos, .doubleCount o k⟩ = some (.request i) ∧
      exec i s = .next { s with responses := s.responses ++ [r] } ∧
      (U r.rLo : Int) = S v * 2 ^ k % 2 ^ 128 ∧
      (r.ovf = true ↔ S v * 2 ^ k < -2 ^ 127 ∨ 2 ^ 127 - 1 < S v * 2 ^ k)) ∧
    expand env ⟨b, .casts, .double o⟩ = some (.value v) ∧
    expand env ⟨b, .castu, .double o⟩ = some (.value v) ∧
    expand env ⟨b, .zext, .limb x⟩ = some (.value (double 0#128 vx))
end

