-- ==== Sys2Proof/Laws/State.lean ====
section
/-! SUPPORT. One lemma per field and update, so that no proof unfolds a record update. -/

namespace Sys2Proof.Machine

@[simp] theorem respond_inReset (r : Response) (s : State) :
    (respond r s).inReset = s.inReset := rfl
@[simp] theorem respond_requests (r : Response) (s : State) :
    (respond r s).requests = s.requests := rfl
@[simp] theorem respond_responses (r : Response) (s : State) :
    (respond r s).responses = s.responses ++ [r] := rfl
@[simp] theorem respond_freeIndex (r : Response) (s : State) :
    (respond r s).freeIndex = s.freeIndex := rfl

@[simp] theorem assertReset_inReset (s : State) : (assertReset s).inReset = true := rfl
@[simp] theorem assertReset_requests (s : State) : (assertReset s).requests = [] := rfl
@[simp] theorem assertReset_responses (s : State) :
    (assertReset s).responses = s.responses := rfl
@[simp] theorem assertReset_freeIndex (s : State) :
    (assertReset s).freeIndex = s.freeIndex := rfl

@[simp] theorem releaseReset_inReset (s : State) : (releaseReset s).inReset = false := rfl
@[simp] theorem releaseReset_requests (s : State) :
    (releaseReset s).requests = s.requests := rfl
@[simp] theorem releaseReset_responses (s : State) :
    (releaseReset s).responses = s.responses := rfl
@[simp] theorem releaseReset_freeIndex (s : State) :
    (releaseReset s).freeIndex = s.freeIndex := rfl

@[simp] theorem present_in_reset (req : Request) (s : State) (h : s.inReset = true) :
    present req s = s := by simp [present, h]
@[simp] theorem present_ready (req : Request) (s : State) (h : s.inReset = false) :
    present req s = { s with requests := s.requests ++ [req] } := by simp [present, h]

@[simp] theorem placeRequest_inReset (req : Request) (s : State) :
    (placeRequest req s).inReset = false := rfl
@[simp] theorem placeRequest_requests (req : Request) (s : State) :
    (placeRequest req s).requests = req :: s.requests := rfl
@[simp] theorem placeRequest_responses (req : Request) (s : State) :
    (placeRequest req s).responses = s.responses := rfl
@[simp] theorem placeRequest_freeIndex (req : Request) (s : State) :
    (placeRequest req s).freeIndex = s.freeIndex := rfl

@[simp] theorem wideResponse_ill (v : Double) (o c : Bool) : (wideResponse v o c).ill = false := rfl
@[simp] theorem wideResponse_ovf (v : Double) (o c : Bool) : (wideResponse v o c).ovf = o := rfl
@[simp] theorem wideResponse_carry (v : Double) (o c : Bool) : (wideResponse v o c).carry = c := rfl
@[simp] theorem wideResponse_rLo (v : Double) (o c : Bool) :
    (wideResponse v o c).rLo = loLimb v := rfl
@[simp] theorem wideResponse_rHi (v : Double) (o c : Bool) :
    (wideResponse v o c).rHi = hiLimb v := rfl

@[simp] theorem limbResponse_ill (h l : Limb) (o : Bool) : (limbResponse h l o).ill = false := rfl
@[simp] theorem limbResponse_ovf (h l : Limb) (o : Bool) : (limbResponse h l o).ovf = o := rfl
@[simp] theorem limbResponse_carry (h l : Limb) (o : Bool) :
    (limbResponse h l o).carry = false := rfl
@[simp] theorem limbResponse_rLo (h l : Limb) (o : Bool) : (limbResponse h l o).rLo = l := rfl
@[simp] theorem limbResponse_rHi (h l : Limb) (o : Bool) : (limbResponse h l o).rHi = h := rfl

@[simp] theorem freeResponse_ill (i : Instr) (n : Nat) : (freeResponse i n).ill = false := rfl

end Sys2Proof.Machine
end

