-- ==== Sys2Proof/Laws/Exec.lean ====
section
/-! SUPPORT. What the shared operations and `exec` can do, said once. -/

namespace Sys2Proof.Machine

theorem answer_eq (r : Response) (s : State) :
    answer r s = .next { s with responses := s.responses ++ [r] } := rfl

theorem answerWhen_true (r : Response) (i : Instr) (s : State) :
    answerWhen true r i s = .next { s with responses := s.responses ++ [r] } := rfl

theorem answerWhen_false (r : Response) (i : Instr) (s : State) :
    answerWhen false r i s =
      .next { s with responses := s.responses ++ [freeResponse i s.freeIndex],
                     freeIndex := s.freeIndex + 1 } := rfl

/-- Everything an instruction can do: answer once with `ILL = 0`, and move the counter of free values
on exactly when a precondition is false. -/
theorem exec_cases (i : Instr) (s : State) :
    (violation i = none ∧ ∃ r : Response, r.ill = false ∧
      exec i s = .next { s with responses := s.responses ++ [r] }) ∨
    (violation i ≠ none ∧
      exec i s = .next { s with responses := s.responses ++ [freeResponse i s.freeIndex],
                                freeIndex := s.freeIndex + 1 }) := by
  cases i with
  | divu aHi aLo bLo =>
    simp only [exec, execDivu, violation]
    cases divisorNotZero bLo <;> cases quotientFitsU aHi bLo <;>
      simp [answerWhen_true, answerWhen_false]
  | divs aHi aLo bLo =>
    simp only [exec, execDivs, violation]
    cases divisorNotZero bLo <;> cases quotientFitsS aHi aLo bLo <;>
      simp [answerWhen_true, answerWhen_false]
  | shru aHi aLo sh =>
    simp only [exec, execShru, violation]
    cases shiftCountLegal sh <;> simp [answerWhen_true, answerWhen_false]
  | shrs aHi aLo sh =>
    simp only [exec, execShrs, violation]
    cases shiftCountLegal sh <;> simp [answerWhen_true, answerWhen_false]
  | _ => exact .inl ⟨rfl, _, rfl, rfl⟩

end Sys2Proof.Machine
end

