-- ==== Sys2Proof/Laws/Operands.lean ====
section
/-! SUPPORT. Limb pairs and the roundings, bit by bit and as arithmetic. -/

namespace Sys2Proof.Machine

theorem getLsbD_double (hi lo : Limb) (i : Nat) :
    (double hi lo).getLsbD i = if i < 128 then lo.getLsbD i else hi.getLsbD (i - 128) :=
  BitVec.getLsbD_append

@[simp] theorem getLsbD_hiLimb (v : Double) (i : Nat) :
    (hiLimb v).getLsbD i = (decide (i < 128) && v.getLsbD (128 + i)) :=
  BitVec.getLsbD_extractLsb' ..

@[simp] theorem getLsbD_loLimb (v : Double) (i : Nat) :
    (loLimb v).getLsbD i = (decide (i < 128) && v.getLsbD i) := by
  simp [loLimb, BitVec.getLsbD_extractLsb']

@[simp] theorem getLsbD_copies (b : Bool) (i : Nat) :
    (copies b).getLsbD i = (decide (i < 128) && b) := by
  cases b
  · simp [copies]
  · exact (BitVec.getLsbD_allOnes (v := 128) (i := i)).trans (Bool.and_true _).symm

@[simp] theorem hiLimb_double (hi lo : Limb) : hiLimb (double hi lo) = hi := by
  apply BitVec.eq_of_getLsbD_eq
  intro i h
  rw [getLsbD_hiLimb, getLsbD_double, if_neg (by omega), Nat.add_sub_cancel_left]
  simp [h]

@[simp] theorem loLimb_double (hi lo : Limb) : loLimb (double hi lo) = lo := by
  apply BitVec.eq_of_getLsbD_eq
  intro i h
  rw [getLsbD_loLimb, getLsbD_double, if_pos h]
  simp [h]

@[simp] theorem double_limbs (v : Double) : double (hiLimb v) (loLimb v) = v := by
  apply BitVec.eq_of_getLsbD_eq
  intro i h
  rw [getLsbD_double, getLsbD_hiLimb, getLsbD_loLimb]
  by_cases h' : i < 128
  · simp [h']
  · rw [if_neg h', show 128 + (i - 128) = i by omega, decide_eq_true (by omega : i - 128 < 128),
      Bool.true_and]

/-- The divisor is positive, so rounding toward minus infinity is Lean's `/` on integers. -/
theorem floorShiftInt_eq_ediv (x : Int) (s : Nat) : floorShiftInt x s = x / 2 ^ s := by
  have h : (0 : Int) ≤ 2 ^ s := by positivity
  exact Int.fdiv_eq_ediv_of_nonneg x h

@[simp] theorem floorShift_eq_div (x s : Nat) : floorShift x s = x / 2 ^ s := rfl

@[simp] theorem truncDiv_eq_tdiv (x y : Int) : truncDiv x y = x.tdiv y := rfl

end Sys2Proof.Machine
end

