-- ==== Sys2Proof/Laws/PerInstr.lean ====
section
/-! SUPPORT. Families of statements made for every instruction. `CanonicalControl`: the control word of
an instruction's canonical request holds its opcode and zero reserved bits (`30_encoding.md` R51,
R54, R57). -/

namespace Sys2Proof.Laws

theorem getLsbD_mkCtrl (sh : Nat) (op : BitVec 4) (i : Nat) :
    (mkCtrl sh op).getLsbD i = if i < 4 then op.getLsbD i
      else decide (8 ≤ i) && (BitVec.ofNat 8 sh).getLsbD (i - 8) := by
  have h : (mkCtrl sh op).getLsbD i = if i < 4 then op.getLsbD i
      else (BitVec.ofNat 8 sh ++ 0#4).getLsbD (i - 4) := BitVec.getLsbD_append
  have h' : (BitVec.ofNat 8 sh ++ 0#4).getLsbD (i - 4) = if i - 4 < 4 then
      (0#4).getLsbD (i - 4) else (BitVec.ofNat 8 sh).getLsbD (i - 4 - 4) := BitVec.getLsbD_append
  rw [h, h', Nat.sub_sub]
  by_cases h4 : i < 4
  · simp [h4]
  · by_cases h8 : 8 ≤ i
    · simp [h4, h8, show ¬ i - 4 < 4 by omega]
    · simp [h4, h8, show i - 4 < 4 by omega]

@[simp] theorem ctrlOp_mkCtrl (sh : Nat) (op : BitVec 4) : ctrlOp (mkCtrl sh op) = op := by
  apply BitVec.eq_of_getLsbD_eq
  intro i h
  rw [ctrlOp, BitVec.getLsbD_extractLsb', getLsbD_mkCtrl, Nat.zero_add, if_pos h]
  simp [h]

@[simp] theorem ctrlRsv_mkCtrl (sh : Nat) (op : BitVec 4) : ctrlRsv (mkCtrl sh op) = 0#4 := by
  apply BitVec.eq_of_getLsbD_eq
  intro i h
  rw [ctrlRsv, BitVec.getLsbD_extractLsb', getLsbD_mkCtrl, if_neg (by omega)]
  simp
  omega

@[simp] theorem ctrlSh_mkCtrl (sh : Nat) (op : BitVec 4) :
    ctrlSh (mkCtrl sh op) = BitVec.ofNat 8 sh := by
  apply BitVec.eq_of_getLsbD_eq
  intro i h
  rw [ctrlSh, BitVec.getLsbD_extractLsb', getLsbD_mkCtrl, if_neg (by omega),
    Nat.add_sub_cancel_left]
  simp [h]

/-- The control word of the canonical request: the opcode in bits 3:0, zeros in bits 7:4. -/
def CanonicalControl.Statement (i : Instr) : Prop :=
  ctrlOp (encode i).ctrl = opcode i ∧ ctrlRsv (encode i).ctrl = 0#4

theorem CanonicalControl.mulu (aLo bLo : Limb) :
    CanonicalControl.Statement (.mulu aLo bLo) :=
  ⟨ctrlOp_mkCtrl _ _, ctrlRsv_mkCtrl _ _⟩

theorem CanonicalControl.muls (aLo bLo : Limb) :
    CanonicalControl.Statement (.muls aLo bLo) :=
  ⟨ctrlOp_mkCtrl _ _, ctrlRsv_mkCtrl _ _⟩

theorem CanonicalControl.divu (aHi aLo bLo : Limb) :
    CanonicalControl.Statement (.divu aHi aLo bLo) :=
  ⟨ctrlOp_mkCtrl _ _, ctrlRsv_mkCtrl _ _⟩

theorem CanonicalControl.divs (aHi aLo bLo : Limb) :
    CanonicalControl.Statement (.divs aHi aLo bLo) :=
  ⟨ctrlOp_mkCtrl _ _, ctrlRsv_mkCtrl _ _⟩

theorem CanonicalControl.shru (aHi aLo : Limb) (sh : Nat) :
    CanonicalControl.Statement (.shru aHi aLo sh) :=
  ⟨ctrlOp_mkCtrl _ _, ctrlRsv_mkCtrl _ _⟩

theorem CanonicalControl.shrs (aHi aLo : Limb) (sh : Nat) :
    CanonicalControl.Statement (.shrs aHi aLo sh) :=
  ⟨ctrlOp_mkCtrl _ _, ctrlRsv_mkCtrl _ _⟩

theorem CanonicalControl.shlnu (aHi aLo : Limb) (sh : Nat) :
    CanonicalControl.Statement (.shlnu aHi aLo sh) :=
  ⟨ctrlOp_mkCtrl _ _, ctrlRsv_mkCtrl _ _⟩

theorem CanonicalControl.shlns (aHi aLo : Limb) (sh : Nat) :
    CanonicalControl.Statement (.shlns aHi aLo sh) :=
  ⟨ctrlOp_mkCtrl _ _, ctrlRsv_mkCtrl _ _⟩

theorem CanonicalControl.add (aHi aLo bHi bLo : Limb) :
    CanonicalControl.Statement (.add aHi aLo bHi bLo) :=
  ⟨ctrlOp_mkCtrl _ _, ctrlRsv_mkCtrl _ _⟩

theorem CanonicalControl.sub (aHi aLo bHi bLo : Limb) :
    CanonicalControl.Statement (.sub aHi aLo bHi bLo) :=
  ⟨ctrlOp_mkCtrl _ _, ctrlRsv_mkCtrl _ _⟩

theorem CanonicalControl.neg (aHi aLo : Limb) :
    CanonicalControl.Statement (.neg aHi aLo) :=
  ⟨ctrlOp_mkCtrl _ _, ctrlRsv_mkCtrl _ _⟩

theorem CanonicalControl.sext (aLo : Limb) :
    CanonicalControl.Statement (.sext aLo) :=
  ⟨ctrlOp_mkCtrl _ _, ctrlRsv_mkCtrl _ _⟩

end Sys2Proof.Laws
end

