-- ==== Sys2Proof/Laws/Step.lean ====
section
/-! SUPPORT. Which request a step takes, and the shape of a step. -/

namespace Sys2Proof.Machine

theorem takeRequest_ready (s : State) (req : Request) (rest : List Request)
    (hr : s.inReset = false) (hq : s.requests = req :: rest) :
    takeRequest s = some (req, { s with requests := rest }) := by
  simp [takeRequest, hr, hq]

theorem takeRequest_idle (s : State) (h : s.inReset = true ∨ s.requests = []) :
    takeRequest s = none := by
  rcases h with h | h <;> simp [takeRequest, h]

theorem takeRequest_eq_some {s s' : State} {req : Request} (h : takeRequest s = some (req, s')) :
    s.inReset = false ∧ ∃ rest, s.requests = req :: rest ∧ s' = { s with requests := rest } := by
  unfold takeRequest at h
  split at h
  · cases h
  · rename_i hr
    split at h
    · cases h
    · rename_i q rest hq
      simp only [Option.some.injEq, Prod.mk.injEq] at h
      obtain ⟨rfl, rfl⟩ := h
      exact ⟨by simpa using hr, rest, hq, rfl⟩

theorem step_idle (s : State) (h : s.inReset = true ∨ s.requests = []) : step s = .next s := by
  simp [step, takeRequest_idle s h]

/-- A run of `k + 1` steps whose first step answers `next t` is a run of `k` steps from `t`. -/
theorem run_succ_of_next (M : Host.Core) (k : Nat) (s t : M.State) (h : M.step s = .next t) :
    M.run (k + 1) s = M.run k t := by
  simp [Host.Core.run, h]

end Sys2Proof.Machine
end

