-- ==== Sys2Proof/Machine/Program.lean ====
section
/-! DEFINITION. The host's side of a program (`70_reset_and_hazards.md` R143, `30_encoding.md` R60):
it issues one line at a time, waits for the response (`20_memory.md` R47) and carries it into later
lines by name. None of this is state of the block (`10_state.md` R30). -/

namespace Sys2Proof.Machine

/-- Give a value the name of a line, if the line has one. -/
def bindLine (env : Env) (l : Line) (v : Double) : Env :=
  match l.bind with
  | some n => (n, v) :: env
  | none => env

/-- Issue one line on a block with nothing in flight: a line that is no request (R61) only binds its
value; a request is presented, the block takes one step, and the response is bound. `none` where the
line stands for nothing, a request is in flight already, or the block is in reset. -/
def issueLine (env : Env) (s : State) (l : Line) : Option (Env × State) :=
  match expand env l with
  | none => none
  | some (.value v) => some (bindLine env l v, s)
  | some (.request i) =>
    if s.inReset || !s.requests.isEmpty then none
    else
      match step (present (encode i) s) with
      | .next t => t.responses.getLast?.map fun r => (bindLine env l (double r.rHi r.rLo), t)
      | .fault _ => none
      | .refused _ => none

end Sys2Proof.Machine
end

