-- ==== Sys2Proof/Tests/Slice0.lean ====
section
/-! SUPPORT. Tests, whose expected results are copied from the spec (the vector `V<n>` of
`95_test_vectors.md` or `96_datapath_vectors_and_programs.md` named with each), the ill-formed terms,
the decoded words, and a witness for the hypotheses of every statement that has some. -/

namespace Sys2Proof.Tests

open Sys2Proof.Machine

/-- The response to one request after reset. -/
def responseTo (req : Request) : Option Response :=
  match step (present req State.reset) with
  | .next s => s.responses.head?
  | .fault _ => none
  | .refused _ => none

/-- A state with the requests at its port. -/
def withRequests (reqs : List Request) : State := { State.reset with requests := reqs }

/-! ### Ill-formed terms are refused (R52) -/

theorem test_illformed_shru : Instr.wellFormed (.shru 0#128 0#128 256) = false := by decide
theorem test_illformed_shrs : Instr.wellFormed (.shrs 0#128 0#128 256) = false := by decide
theorem test_illformed_shlnu : Instr.wellFormed (.shlnu 0#128 0#128 256) = false := by decide
theorem test_illformed_shlns : Instr.wellFormed (.shlns 0#128 0#128 256) = false := by decide
theorem test_wellformed_shlns : Instr.wellFormed (.shlns 0#128 0#128 255) = true := by decide

/-! ### Words written out from the encoding `ssssssss 0000 oooo` (R51, R54) -/

theorem test_decode_mulu : decodeTableWord 16 0b0000000000000000 = some (.mulu 0#128 0#128) := by
  decide
theorem test_decode_muls : decodeTableWord 16 0b0000000000000001 = some (.muls 0#128 0#128) := by
  decide
theorem test_decode_divu : decodeTableWord 16 0b0000000000000010 = some (.divu 0#128 0#128 0#128) := by
  decide
theorem test_decode_divs : decodeTableWord 16 0b0000000000000011 = some (.divs 0#128 0#128 0#128) := by
  decide
theorem test_decode_shru : decodeTableWord 16 0b1000000000000100 = some (.shru 0#128 0#128 128) := by
  decide
theorem test_decode_shrs : decodeTableWord 16 0b0000000100000101 = some (.shrs 0#128 0#128 1) := by
  decide
theorem test_decode_shlnu : decodeTableWord 16 0b0100000000000110 = some (.shlnu 0#128 0#128 64) := by
  decide
theorem test_decode_shlns : decodeTableWord 16 0b1111111100000111 = some (.shlns 0#128 0#128 255) := by
  decide
theorem test_decode_add : decodeTableWord 16 0b0000000000001000 = some (.add 0#128 0#128 0#128 0#128) := by
  decide
theorem test_decode_sub : decodeTableWord 16 0b0000000000001001 = some (.sub 0#128 0#128 0#128 0#128) := by
  decide
theorem test_decode_neg : decodeTableWord 16 0b0000000000001010 = some (.neg 0#128 0#128) := by
  decide
theorem test_decode_sext : decodeTableWord 16 0b0000000000001011 = some (.sext 0#128) := by
  decide
theorem test_decode_reserved_opcode : decodeTableWord 16 0b0000000000001111 = none := by decide
theorem test_decode_reserved_bits : decodeTableWord 16 0b0000000010000000 = none := by decide

/-! ### One request after reset -/

/-- V1, V4. -/
theorem test_mulu_umax_squared : responseTo
    ⟨0x0000#16, 0xFFFFFFFFFFFFFFFFFFFFFFFFFFFFFFFF#128, 0#128,
      0xFFFFFFFFFFFFFFFFFFFFFFFFFFFFFFFF#128, 0#128⟩ =
    some ⟨1#128, 0xFFFFFFFFFFFFFFFFFFFFFFFFFFFFFFFE#128,
      false, false, false⟩ := by
  decide
/-- V17. -/
theorem test_mulu_general_ignoring_other_fields : responseTo
    ⟨0xFF00#16, 0x0123456789ABCDEFFEDCBA9876543210#128, 0xF123456789ABCDEFFEDCBA9876543210#128,
      0x0F1E2D3C4B5A69788796A5B4C3D2E1F0#128, 0x0F1E2D3C4B5A69788796A5B4C3D2E1F0#128⟩ =
    some ⟨0x3B18E5A14BE56DE55EF9A562300EFF00#128, 0x00113366AB0066DE65DC4195D90B2C3C#128,
      false, false, false⟩ := by
  decide
/-- V5. -/
theorem test_muls_most_negative_product : responseTo
    ⟨0x0001#16, 0x80000000000000000000000000000000#128, 0#128,
      0x7FFFFFFFFFFFFFFFFFFFFFFFFFFFFFFF#128, 0#128⟩ =
    some ⟨0x80000000000000000000000000000000#128, 0xC0000000000000000000000000000000#128,
      false, false, false⟩ := by
  decide
/-- V5. -/
theorem test_muls_general_negative : responseTo
    ⟨0x0001#16, 0xF123456789ABCDEFFEDCBA9876543210#128, 0#128,
      0x0F1E2D3C4B5A69788796A5B4C3D2E1F0#128, 0#128⟩ =
    some ⟨0x3B18E5A14BE56DE55EF9A562300EFF00#128, 0xFF1F5092E64AC046DD62D73A8CCDFE1D#128,
      false, false, false⟩ := by
  decide
/-- V2, V17. -/
theorem test_divu_document_scenario_ignoring_other_fields : responseTo
    ⟨0x7702#16, 1#128, 0x000000000000000000000000000000FF#128,
      0x80000000000000000000000000000001#128, 0xFFFFFFFFFFFFFFFFFFFFFFFFFFFFFFFF#128⟩ =
    some ⟨0x000000000000000000000000000001FD#128, 0x7FFFFFFFFFFFFFFFFFFFFFFFFFFFFE04#128,
      false, false, false⟩ := by
  decide
/-- V7. -/
theorem test_divs_minus_seven_by_two : responseTo
    ⟨0x0003#16, 0xFFFFFFFFFFFFFFFFFFFFFFFFFFFFFFF9#128, 0xFFFFFFFFFFFFFFFFFFFFFFFFFFFFFFFF#128,
      2#128, 0#128⟩ =
    some ⟨0xFFFFFFFFFFFFFFFFFFFFFFFFFFFFFFFD#128, 0xFFFFFFFFFFFFFFFFFFFFFFFFFFFFFFFF#128,
      false, false, false⟩ := by
  decide
/-- V7. -/
theorem test_divs_by_smin : responseTo
    ⟨0x0003#16, 1#128, 0xC0000000000000000000000000000000#128,
      0x80000000000000000000000000000000#128, 0#128⟩ =
    some ⟨0x7FFFFFFFFFFFFFFFFFFFFFFFFFFFFFFF#128, 0x80000000000000000000000000000001#128,
      false, false, false⟩ := by
  decide
/-- V8. -/
theorem test_shru_by_127 : responseTo
    ⟨0x7F04#16, 0x0F1E2D3C4B5A69788796A5B4C3D2E1F0#128, 0xF123456789ABCDEFFEDCBA9876543210#128,
      0#128, 0#128⟩ =
    some ⟨0xE2468ACF13579BDFFDB97530ECA86420#128, 1#128,
      false, false, false⟩ := by
  decide
/-- V9. -/
theorem test_shrs_minus_three_by_one : responseTo
    ⟨0x0105#16, 0xFFFFFFFFFFFFFFFFFFFFFFFFFFFFFFFD#128, 0xFFFFFFFFFFFFFFFFFFFFFFFFFFFFFFFF#128,
      0#128, 0#128⟩ =
    some ⟨0xFFFFFFFFFFFFFFFFFFFFFFFFFFFFFFFE#128, 0xFFFFFFFFFFFFFFFFFFFFFFFFFFFFFFFF#128,
      false, false, false⟩ := by
  decide
/-- V9. -/
theorem test_shrs_by_128 : responseTo
    ⟨0x8005#16, 0x0F1E2D3C4B5A69788796A5B4C3D2E1F0#128, 0xF123456789ABCDEFFEDCBA9876543210#128,
      0#128, 0#128⟩ =
    some ⟨0xF123456789ABCDEFFEDCBA9876543210#128, 0xFFFFFFFFFFFFFFFFFFFFFFFFFFFFFFFF#128,
      false, false, false⟩ := by
  decide
/-- V10. -/
theorem test_shlnu_by_8_overflows : responseTo
    ⟨0x0806#16, 0x0F1E2D3C4B5A69788796A5B4C3D2E1F0#128, 0x0123456789ABCDEFFEDCBA9876543210#128,
      0#128, 0#128⟩ =
    some ⟨0x23456789ABCDEFFEDCBA98765432100F#128, 0#128,
      true, false, false⟩ := by
  decide
/-- V10. -/
theorem test_shlnu_by_129_overflows : responseTo
    ⟨0x8106#16, 0x80000000000000000000000000000000#128, 0#128,
      0#128, 0#128⟩ =
    some ⟨0#128, 0#128,
      true, false, false⟩ := by
  decide
/-- V11. -/
theorem test_shlns_minus_one_by_255_fits : responseTo
    ⟨0xFF07#16, 0xFFFFFFFFFFFFFFFFFFFFFFFFFFFFFFFF#128, 0xFFFFFFFFFFFFFFFFFFFFFFFFFFFFFFFF#128,
      0#128, 0#128⟩ =
    some ⟨0x80000000000000000000000000000000#128, 0xFFFFFFFFFFFFFFFFFFFFFFFFFFFFFFFF#128,
      false, false, false⟩ := by
  decide
/-- V11. -/
theorem test_shlns_by_7_overflows : responseTo
    ⟨0x0707#16, 0x0F1E2D3C4B5A69788796A5B4C3D2E1F0#128, 0x0123456789ABCDEFFEDCBA9876543210#128,
      0#128, 0#128⟩ =
    some ⟨0x91A2B3C4D5E6F7FF6E5D4C3B2A190807#128, 0xFFFFFFFFFFFFFFFFFFFFFFFFFFFFFFFF#128,
      true, false, false⟩ := by
  decide
/-- V12. -/
theorem test_add_dsmin_and_minus_one : responseTo
    ⟨0x0008#16, 0#128, 0x80000000000000000000000000000000#128,
      0xFFFFFFFFFFFFFFFFFFFFFFFFFFFFFFFF#128, 0xFFFFFFFFFFFFFFFFFFFFFFFFFFFFFFFF#128⟩ =
    some ⟨0xFFFFFFFFFFFFFFFFFFFFFFFFFFFFFFFF#128, 0x7FFFFFFFFFFFFFFFFFFFFFFFFFFFFFFF#128,
      true, true, false⟩ := by
  decide
/-- V12. -/
theorem test_add_carry_crosses_the_limbs : responseTo
    ⟨0x0008#16, 0xFFFFFFFFFFFFFFFFFFFFFFFFFFFFFFFF#128, 0#128,
      1#128, 0#128⟩ =
    some ⟨0#128, 1#128,
      false, false, false⟩ := by
  decide
/-- V13. -/
theorem test_sub_dsmax_minus_minus_one : responseTo
    ⟨0x0009#16, 0xFFFFFFFFFFFFFFFFFFFFFFFFFFFFFFFF#128, 0x7FFFFFFFFFFFFFFFFFFFFFFFFFFFFFFF#128,
      0xFFFFFFFFFFFFFFFFFFFFFFFFFFFFFFFF#128, 0xFFFFFFFFFFFFFFFFFFFFFFFFFFFFFFFF#128⟩ =
    some ⟨0#128, 0x80000000000000000000000000000000#128,
      true, true, false⟩ := by
  decide
/-- V13. -/
theorem test_sub_three_minus_minus_five : responseTo
    ⟨0x0009#16, 3#128, 0#128,
      0xFFFFFFFFFFFFFFFFFFFFFFFFFFFFFFFB#128, 0xFFFFFFFFFFFFFFFFFFFFFFFFFFFFFFFF#128⟩ =
    some ⟨8#128, 0#128,
      false, true, false⟩ := by
  decide
/-- V14. -/
theorem test_neg_dsmin : responseTo
    ⟨0x000A#16, 0#128, 0x80000000000000000000000000000000#128,
      0#128, 0#128⟩ =
    some ⟨0#128, 0x80000000000000000000000000000000#128,
      true, true, false⟩ := by
  decide
/-- V14. -/
theorem test_neg_carry_crosses_the_limbs : responseTo
    ⟨0x000A#16, 0#128, 1#128,
      0#128, 0#128⟩ =
    some ⟨0#128, 0xFFFFFFFFFFFFFFFFFFFFFFFFFFFFFFFF#128,
      false, true, false⟩ := by
  decide
/-- V15. -/
theorem test_sext_smin : responseTo
    ⟨0x000B#16, 0x80000000000000000000000000000000#128, 0#128,
      0#128, 0#128⟩ =
    some ⟨0x80000000000000000000000000000000#128, 0xFFFFFFFFFFFFFFFFFFFFFFFFFFFFFFFF#128,
      false, false, false⟩ := by
  decide
/-- V17. -/
theorem test_sext_general_ignoring_other_fields : responseTo
    ⟨0x010B#16, 0xF123456789ABCDEFFEDCBA9876543210#128, 0x0123456789ABCDEFFEDCBA9876543210#128,
      5#128, 6#128⟩ =
    some ⟨0xF123456789ABCDEFFEDCBA9876543210#128, 0xFFFFFFFFFFFFFFFFFFFFFFFFFFFFFFFF#128,
      false, false, false⟩ := by
  decide
/-- V16. -/
theorem test_illegal_opcode : responseTo
    ⟨0x000C#16, 0x0F1E2D3C4B5A69788796A5B4C3D2E1F0#128, 0x0123456789ABCDEFFEDCBA9876543210#128,
      0x0F1E2D3C4B5A69788796A5B4C3D2E1F0#128, 0xF123456789ABCDEFFEDCBA9876543210#128⟩ =
    some ⟨0#128, 0#128,
      false, false, true⟩ := by
  decide
/-- V16. -/
theorem test_illegal_reserved_bits_before_opcode : responseTo
    ⟨0x8014#16, 0x0F1E2D3C4B5A69788796A5B4C3D2E1F0#128, 0x0123456789ABCDEFFEDCBA9876543210#128,
      0x0F1E2D3C4B5A69788796A5B4C3D2E1F0#128, 0xF123456789ABCDEFFEDCBA9876543210#128⟩ =
    some ⟨0#128, 0#128,
      false, false, true⟩ := by
  decide

/-- V18: a zero divisor; `ILL = 0` "is the only defined bit", and the block goes on (R122). -/
theorem test_zero_divisor_is_answered :
    (responseTo ⟨0x0002#16, 7#128, 0#128, 0#128, 0#128⟩).map (·.ill) = some false := by decide
/-- V18: SHRU by 129. -/
theorem test_shru_by_129_is_answered :
    (responseTo ⟨0x8104#16, 7#128, 0#128, 0#128, 0#128⟩).map (·.ill) = some false := by decide
/-- V18 under the debug-only assertion (R123). -/
theorem test_assertion_names_the_zero_divisor :
    nextViolation (withRequests [⟨0x0003#16, 7#128, 0#128, 0#128, 0#128⟩]) = some .zeroDivisor := by
  decide

/-! ### The packed forms -/

/-- V27, the first `REQ`: `ADD 0 : 5, 0 : 7`, and its `RSP`. -/
theorem test_packed_request : packRequest ⟨0x0008#16, 5#128, 0#128, 7#128, 0#128⟩ =
    0x000800000000000000000000000000000000000000000000000000000000000000070000000000000000000000000000000000000000000000000000000000000005#528 := by
  decide +kernel
/-- V26, step 4: `FLAGS = 010`. -/
theorem test_packed_response : packResponse ⟨0#128, 0xFFFFFFFFFFFFFFFFFFFFFFFFFFFFFFFE#128, false, true, false⟩ =
    0x2FFFFFFFFFFFFFFFFFFFFFFFFFFFFFFFE00000000000000000000000000000000#259 := by
  decide +kernel
/-- R42: `A_LO[7:0]` is byte 0, and `CTRL` is in bytes 64 and 65. -/
theorem test_request_bytes_ends : (requestBytes ⟨0x4004#16, 0x1F0#128, 0#128, 0#128, 0#128⟩)[0]? = some 0xF0#8 ∧
    (requestBytes ⟨0x4004#16, 0x1F0#128, 0#128, 0#128, 0#128⟩)[65]? = some 0x40#8 := by
  decide +kernel
theorem test_decode_bytes :
    decodeBytes (encodeBytes (.shru 1#128 2#128 64)) = .ok (.shru 1#128 2#128 64) := by
  decide +kernel
theorem test_decode_short_bytes : decodeBytes [0#8, 1#8] = .error (.wrongLength 2) := by decide

/-! ### The reference datapaths -/

/-- V19, third row: two corrections. -/
theorem test_half_step_two_corrections :
    divHalf 0x80000000000000F2FFFFFFFFFFFFFFFE 0x80000000000000F2FFFFFFFFFFFFFFFF 0 =
    .ok ⟨0x80000000000000F1FFFFFFFFFFFFFFFF, 0xFFFFFFFFFFFFFFFF, 0x10000000000000001, 2⟩ := by
  decide
/-- V20: the trace of the unnormalised divisor. -/
theorem test_divider_trace :
    divuDatapath (double 0x00000000000000000123456789ABCDEF#128 0xFEDCBA98765432100123456789ABCDEF#128)
      0x0123456789ABCDF00000000000000000#128 =
    .ok ⟨0, 0, 0, 0xFFFFFFFFFFFFFFFF, 0xFFFFFFFFFFFFFFFF, 0x0123456789ABCDEF⟩ := by
  decide +kernel
/-- V21, fifth row. -/
theorem test_mixed_half_limb : mulSignedUnsigned 0xFEDCBA9876543210#64 0x0123456789ABCDEF#64 =
    0xFFFEB49923CC09532236D88FE5618CF0#128 := by
  decide
/-- V22: the middle column overflows 128 bits. -/
theorem test_mulu_columns_carry :
    (muluColumns 0xFFFFFFFFFFFFFFFFFFFFFFFFFFFFFFFF#128 0xFFFFFFFFFFFFFFFFFFFFFFFFFFFFFFFF#128).s1 =
      0x1FFFFFFFFFFFFFFFD0000000000000000 := by
  decide

/-! ### The notation for requests -/

/-- R60: "`r = SHLNU p, #64`". -/
theorem test_parse_shlnu : parseLine [.name "r", .equals, .mnemonic .shlnu, .name "p", .comma, .hash,
    .literal 64] = some ⟨some "r", .shlnu, .doubleCount (.name "p") 64⟩ := by
  decide +kernel
/-- V26, step 6: NARROWU is `SHLNU` with the count 128, `CTRL = 0x8006`. -/
theorem test_assemble_narrowu :
    (assemble [("d1", BitVec.allOnes 256)] ⟨some "nr", .narrowu, .double (.name "d1")⟩).map (·.ctrl) =
      some 0x8006#16 := by
  decide +kernel

/-- V24, step 1: `n = MULS ...` binds the 256-bit product to the host's name. -/
theorem test_issue_line_binds_the_response :
    (issueLine [] State.reset ⟨some "n", .muls, .limbLimb (.lit 0xFFFFFFFFFFFFFFF90000000000000000#128)
      (.lit 0x00000000000000010000000000000000#128)⟩).map (·.1) =
    some [("n", double 0xFFFFFFFFFFFFFFFFFFFFFFFFFFFFFFF9#128 0#128)] := by
  decide +kernel

/-- R60: a bare name is no `op128`, so the grammar does not derive `p = MULU x, y` (log 15). -/
theorem test_parse_bare_name_is_no_op128 : parseLine [.name "p", .equals, .mnemonic .mulu, .name "x",
    .comma, .name "y"] = none := by
  decide +kernel

/-! ### Witnesses: the hypotheses of each statement, met together -/

/-- The encoding clause of each of the twelve instruction statements. -/
theorem witness_WordOfEachOperation :
    U (0xFF00#16) % 256 = 0x0 ∧ U (0xFF01#16) % 256 = 0x1 ∧ U (0x7702#16) % 256 = 0x2 ∧
    U (0x0003#16) % 256 = 0x3 ∧ U (0x8004#16) % 256 = 0x4 ∧ U (0x0105#16) % 256 = 0x5 ∧
    U (0xFF06#16) % 256 = 0x6 ∧ U (0xFF07#16) % 256 = 0x7 ∧ U (0xAB08#16) % 256 = 0x8 ∧
    U (0x0009#16) % 256 = 0x9 ∧ U (0x330A#16) % 256 = 0xA ∧ U (0x010B#16) % 256 = 0xB := by
  decide

/-- The largest legal high limb for the divisor 1. -/
theorem witness_DivuGivesQuotientAndRemainder : U (1#128) ≠ 0 ∧ U (0#128) < U (1#128) := by decide

/-- The dividend -2^127 and the divisor 1: the quotient is the smallest that fits.
Also the witness of DivsDatapathMeetsContract. -/
theorem witness_DivsRoundsTowardZero : S (1#128) ≠ 0 ∧
    -2 ^ 127 ≤ (S (double 0xFFFFFFFFFFFFFFFFFFFFFFFFFFFFFFFF#128 0x80000000000000000000000000000000#128)).tdiv
      (S (1#128)) ∧
    (S (double 0xFFFFFFFFFFFFFFFFFFFFFFFFFFFFFFFF#128 0x80000000000000000000000000000000#128)).tdiv
      (S (1#128)) ≤ 2 ^ 127 - 1 := by
  decide

/-- The ends of the count range of ShruShiftsRightLogically, ShrsShiftsRightArithmetically,
NarrowingShiftIsARightShift and RightShiftLimbsMeetContract. -/
theorem witness_RightShiftCounts : (0 ≤ 128) ∧ (128 ≤ 128) := by decide

/-- The ends of the count range of ShlnuKeepsTheWindow, ShlnsKeepsTheWindow and
NarrowingShiftLimbsMeetContract. -/
theorem witness_NarrowingShiftCounts : (0 < 256) ∧ (255 < 256) := by decide

/-- Each clause at its boundary: a zero divisor; a high limb equal to the divisor; the quotient 2^127
of -2^127 by -1; the count 129. -/
theorem witness_UndefinedRequestsAreStillAnswered :
    U (0#128) = 0 ∧ U (5#128) ≤ U (5#128) ∧ S (0#128) = 0 ∧
    2 ^ 127 - 1 < (S (double 0xFFFFFFFFFFFFFFFFFFFFFFFFFFFFFFFF#128 0x80000000000000000000000000000000#128)).tdiv
      (S 0xFFFFFFFFFFFFFFFFFFFFFFFFFFFFFFFF#128) ∧
    (S (double 0x80000000000000000000000000000000#128 0#128)).tdiv (S (1#128)) < -2 ^ 127 ∧
    128 < 129 := by
  decide

theorem witness_QuotientFitsIffHighLimbLess : U (1#128) ≠ 0 := by decide

theorem witness_ShlnuOverflowIsMonotonic : (127 ≤ 128) := by decide

theorem witness_DroppedLowBitsCanBeFetched : (1 ≤ 1 ∧ 1 ≤ 128) ∧ (1 ≤ 128 ∧ 128 ≤ 128) := by decide

/-- An instruction with preconditions that keeps them. -/
theorem witness_WhichInstructionsSetFlags : violation (.shru 0#128 0#128 128) = none := by decide

/-- A state with a legal, defined request at the port. Also the witness of EveryRequestIsAnsweredOnce. -/
theorem witness_StepRunsTheDecodedRequest :
    (withRequests [⟨0x0008#16, 5#128, 0#128, 7#128, 0#128⟩]).inReset = false ∧
    (withRequests [⟨0x0008#16, 5#128, 0#128, 7#128, 0#128⟩]).requests =
      ⟨0x0008#16, 5#128, 0#128, 7#128, 0#128⟩ :: [] ∧
    decode ⟨0x0008#16, 5#128, 0#128, 7#128, 0#128⟩ = .ok (.add 0#128 5#128 0#128 7#128) := by
  decide

theorem witness_PlacedWordRunsNext : decodeTableWord 16 0xFF07 = some (.shlns 0#128 0#128 255) := by
  decide

/-- Both clauses at their boundaries: `OP = 12`, `RSV = 1`, and the last legal opcode. -/
theorem witness_IllegalRequestResponse :
    (withRequests [⟨0x000C#16, 5#128, 0#128, 7#128, 0#128⟩]).inReset = false ∧
    12 ≤ U (0x000C#16) % 16 ∧ U (0x0010#16) / 16 % 16 ≠ 0 ∧
    (U (0x000B#16) / 16 % 16 = 0 ∧ U (0x000B#16) % 16 < 12) := by
  decide

theorem witness_DecodeIsTotal : U (0x0080#16) / 16 % 16 ≠ 0 ∧
    (U (0x000F#16) / 16 % 16 = 0 ∧ 12 ≤ U (0x000F#16) % 16) ∧
    (U (0xFF0B#16) / 16 % 16 = 0 ∧ U (0xFF0B#16) % 16 < 12) := by
  decide

theorem witness_OpcodeMapIsUnambiguous : (⟨"SEXT", 0x000B#16, 0x00FF#16⟩ : OpcodeRow) ∈ opcodeTable ∧
    OpcodeRow.selects ⟨"SEXT", 0x000B#16, 0x00FF#16⟩ 0xFF0B#16 = true ∧
    decode ⟨0xFF0B#16, 0#128, 0#128, 0#128, 0#128⟩ = .ok (.sext 0#128) := by
  decide +kernel

/-- Two control words that differ in `SH` only, for each clause. -/
theorem witness_IgnoredFieldsDoNotMatter :
    (U (0xFF00#16) % 256 = U (0x0000#16) % 256 ∧ U (0x0001#16) % 256 ≤ 1) ∧
    (2 ≤ U (0x0002#16) % 256 ∧ U (0x0003#16) % 256 ≤ 3) ∧
    (4 ≤ U (0x0004#16) % 256 ∧ U (0xFF07#16) % 256 ≤ 7) ∧
    (8 ≤ U (0x0008#16) % 256 ∧ U (0x0009#16) % 256 ≤ 9) ∧
    U (0x330A#16) % 256 = 10 ∧ U (0x010B#16) % 256 = 11 := by
  decide

/-- Two states with different histories and the same request taken next. -/
theorem witness_ResponseIndependentOfHistory :
    (withRequests [⟨0x0008#16, 5#128, 0#128, 7#128, 0#128⟩]).inReset = false ∧
    ({ withRequests [⟨0x0008#16, 5#128, 0#128, 7#128, 0#128⟩, ⟨0x000C#16, 0#128, 0#128, 0#128, 0#128⟩] with
      responses := [illegalResponse] } : State).inReset = false ∧
    Defined ⟨0x0008#16, 5#128, 0#128, 7#128, 0#128⟩ := by
  decide

/-- A stream with an illegal request in the middle. -/
theorem witness_StreamIsAnsweredInOrder :
    (withRequests [⟨0x0008#16, 5#128, 0#128, 7#128, 0#128⟩, ⟨0x000C#16, 5#128, 0#128, 7#128, 0#128⟩,
      ⟨0x0008#16, 5#128, 0#128, 7#128, 0#128⟩]).inReset = false ∧
    Defined ⟨0x000C#16, 5#128, 0#128, 7#128, 0#128⟩ := by
  decide

theorem witness_ResetDropsRequestsInFlight : Defined ⟨0x0003#16, 7#128, 0#128, 2#128, 0#128⟩ := by
  decide

/-- A state other than reset that meets the invariant. -/
theorem witness_InvariantIsKept : Inv { withRequests [⟨0x0008#16, 5#128, 0#128, 7#128, 0#128⟩] with
    responses := [illegalResponse] } :=
  ⟨by decide, by decide⟩

/-- The assertion stops on a zero divisor; it stops on nothing in a machine that takes a defined request,
even before a bad one, nor in an idle one; a machine with a defined request only is safe. -/
theorem witness_AssertionOnlyWatches :
    requestViolation ⟨0x0002#16, 7#128, 0#128, 0#128, 0#128⟩ = some .zeroDivisor ∧
    nextViolation (withRequests [⟨0x0002#16, 7#128, 0#128, 2#128, 0#128⟩,
      ⟨0x0002#16, 7#128, 0#128, 0#128, 0#128⟩]) = none ∧
    State.reset.requests = [] ∧
    Defined ⟨0x0002#16, 7#128, 0#128, 2#128, 0#128⟩ ∧
    Safe (withRequests [⟨0x0002#16, 7#128, 0#128, 2#128, 0#128⟩]) := by
  decide

theorem witness_PreconditionsAreComplete :
    mnemonic (.add 0#128 0#128 0#128 0#128) ∉ ["DIVU", "DIVS", "SHRU", "SHRS"] := by
  decide +kernel

theorem witness_DecodeEncodeRoundTrip : Instr.wellFormed (.shlns 1#128 2#128 255) = true := by decide

/-- A legal request for each clause, the shifts at both ends of their range of opcodes. -/
theorem witness_DecodedInstructionsEncodeCanonically :
    decode ⟨0xFF00#16, 5#128, 1#128, 7#128, 2#128⟩ = .ok (.mulu 5#128 7#128) ∧
    decode ⟨0xFF01#16, 5#128, 1#128, 7#128, 2#128⟩ = .ok (.muls 5#128 7#128) ∧
    decode ⟨0xFF02#16, 5#128, 1#128, 7#128, 2#128⟩ = .ok (.divu 1#128 5#128 7#128) ∧
    decode ⟨0xFF03#16, 5#128, 1#128, 7#128, 2#128⟩ = .ok (.divs 1#128 5#128 7#128) ∧
    decode ⟨0xFF04#16, 5#128, 1#128, 7#128, 2#128⟩ = .ok (.shru 1#128 5#128 255) ∧
    decode ⟨0x0007#16, 5#128, 1#128, 7#128, 2#128⟩ = .ok (.shlns 1#128 5#128 0) ∧
    decode ⟨0xFF08#16, 5#128, 1#128, 7#128, 2#128⟩ = .ok (.add 1#128 5#128 2#128 7#128) ∧
    decode ⟨0xFF09#16, 5#128, 1#128, 7#128, 2#128⟩ = .ok (.sub 1#128 5#128 2#128 7#128) ∧
    decode ⟨0xFF0A#16, 5#128, 1#128, 7#128, 2#128⟩ = .ok (.neg 1#128 5#128) ∧
    decode ⟨0xFF0B#16, 5#128, 1#128, 7#128, 2#128⟩ = .ok (.sext 5#128) := by
  decide

theorem witness_SerialisedFormsAreLittleEndian :
    requestOfBytes (leBytes 66 0) = some ⟨0#16, 0#128, 0#128, 0#128, 0#128⟩ := by
  decide +kernel

/-- The largest running remainder, whose estimate does not fit 64 bits. -/
theorem witness_HalfLimbStepDivides : 2 ^ 127 ≤ 0x80000000000000F2FFFFFFFFFFFFFFFF ∧
    0x80000000000000F2FFFFFFFFFFFFFFFF < 2 ^ 128 ∧
    0x80000000000000F2FFFFFFFFFFFFFFFE < 0x80000000000000F2FFFFFFFFFFFFFFFF ∧ 0 < 2 ^ 64 := by
  decide

theorem witness_DivuDatapathMeetsContract : U (0#128) < U (1#128) := by decide

theorem witness_ZeroHighHalfLimbIsRefused : 2 ^ 64 - 1 < 2 ^ 64 ∧ U (1#128) ≠ 0 := by decide

/-- Also the witness of UnsignedPseudoInstructions and SignedAndHostPseudoInstructions. -/
theorem witness_OperandsGoToTheirPorts : evalOp128 [("p", 5#256)] (.lo "p") = some 5#128 ∧
    evalOp128 [("p", 5#256)] (.lit 1#128) = some 1#128 ∧
    evalOp256 [("p", 5#256)] (.name "p") = some 5#256 ∧
    evalOp256 [("p", 5#256)] (.pair (.lit 0#128) (.lit 5#128)) = some 5#256 ∧ 255 < 256 := by
  decide +kernel

/-- The ends of the ranges of `F` and `k` in the two statements on pseudo-instructions. -/
theorem witness_PseudoInstructionRanges : (0 ≤ 128 ∧ 128 ≤ 128) ∧ (0 ≤ 127 ∧ 127 ≤ 127) := by decide

end Sys2Proof.Tests
end

/-! PROOFS. The value of a limb pair, unsigned and signed (`10_state.md` R22, R23). -/

namespace Sys2Proof.Machine

/-- R22, the unsigned value. -/
theorem U_double (hi lo : Limb) : U (double hi lo) = U hi * 2 ^ 128 + U lo := by
  calc U (double hi lo) = U hi <<< 128 ||| U lo := BitVec.toNat_append hi lo
    _ = U hi <<< 128 + U lo := (Nat.shiftLeft_add_eq_or_of_lt lo.isLt (U hi)).symm
    _ = U hi * 2 ^ 128 + U lo := by rw [Nat.shiftLeft_eq]

/-- R23, the signed value: the low limb is read unsigned, the sign is the high limb's. -/
theorem S_double (hi lo : Limb) : S (double hi lo) = S hi * 2 ^ 128 + (U lo : Int) := by
  calc S (double hi lo) = 2 ^ 128 * S hi + (U lo : Int) := BitVec.toInt_append
    _ = S hi * 2 ^ 128 + (U lo : Int) := by rw [Int.mul_comm]

/-- Settles O22, from the append laws of bit vectors. -/
theorem valueOfALimbPair : Obligations.ValueOfALimbPair :=
  fun hi lo => ⟨U_double hi lo, S_double hi lo⟩

end Sys2Proof.Machine

/-! PROOFS. Which instructions can set which flag (`10_state.md` R28, `44_overflow_flags.md` R111,
`60_exceptions.md` R122). -/

namespace Sys2Proof.Machine

/-! ### What it means that an instruction breaks no precondition (R121) -/

theorem violation_divu_eq_none_iff (aHi aLo bLo : Limb) :
    violation (.divu aHi aLo bLo) = none ↔
      (divisorNotZero bLo && quotientFitsU aHi bLo) = true := by
  cases hd : divisorNotZero bLo <;> cases hq : quotientFitsU aHi bLo <;> simp [violation, hd, hq]

theorem violation_divs_eq_none_iff (aHi aLo bLo : Limb) :
    violation (.divs aHi aLo bLo) = none ↔
      (divisorNotZero bLo && quotientFitsS aHi aLo bLo) = true := by
  cases hd : divisorNotZero bLo <;> cases hq : quotientFitsS aHi aLo bLo <;>
    simp [violation, hd, hq]

theorem violation_shru_eq_none_iff (aHi aLo : Limb) (sh : Nat) :
    violation (.shru aHi aLo sh) = none ↔ shiftCountLegal sh = true := by
  simp [violation]

theorem violation_shrs_eq_none_iff (aHi aLo : Limb) (sh : Nat) :
    violation (.shrs aHi aLo sh) = none ↔ shiftCountLegal sh = true := by
  simp [violation]

/-! ### The flags of a defined response -/

/-- The row of an instruction in the flag table of R111: `OVF` and `CARRY` are set only by the
operations that have the flag, `ILL` by none. -/
structure FlagsAllowed (i : Instr) (r : Response) : Prop where
  ovf : r.ovf = true → mnemonic i ∈ ["SHLNU", "SHLNS", "ADD", "SUB", "NEG"]
  carry : r.carry = true → mnemonic i ∈ ["ADD", "SUB", "NEG"]
  ill : r.ill = false

theorem FlagsAllowed.of_noFlags {i : Instr} {r : Response} (h : NoFlags r) : FlagsAllowed i r := by
  obtain ⟨hovf, hcarry, hill⟩ := h
  exact ⟨by simp [hovf], by simp [hcarry], hill⟩

/-- A response of two limbs has no `CARRY`, so an operation that has `OVF` may give it. -/
theorem FlagsAllowed.of_limbResponse {i : Instr} (hi lo : Limb) (ovf : Bool)
    (h : mnemonic i ∈ ["SHLNU", "SHLNS", "ADD", "SUB", "NEG"]) :
    FlagsAllowed i (limbResponse hi lo ovf) :=
  ⟨fun _ => h, by simp, rfl⟩

/-- ADD, SUB and NEG have both flags. -/
theorem FlagsAllowed.of_wideResponse {i : Instr} (v : Double) (ovf carry : Bool)
    (h : mnemonic i ∈ ["ADD", "SUB", "NEG"]) : FlagsAllowed i (wideResponse v ovf carry) :=
  ⟨fun _ => .tail _ (.tail _ h), fun _ => h, rfl⟩

/-- An operation with a precondition answers with the response given, when the precondition holds. -/
theorem answerWhen_of_true {p : Bool} (hp : p = true) (r : Response) (i : Instr) (s : State) :
    answerWhen p r i s = .next { s with responses := s.responses ++ [r] } := by
  rw [hp, answerWhen_true]

/-- The divides and the right shifts, the operations with a precondition, have no flag. -/
theorem answerWhen_flagsAllowed {p : Bool} {r : Response} (i : Instr) (s : State) (hp : p = true)
    (hr : NoFlags r) :
    ∃ r' : Response, answerWhen p r i s = .next { s with responses := s.responses ++ [r'] } ∧
      FlagsAllowed i r' :=
  ⟨r, answerWhen_of_true hp r i s, .of_noFlags hr⟩

/-- An instruction whose preconditions hold answers with flags of its row in R111's table. -/
theorem exec_flagsAllowed (i : Instr) (s : State) (h : violation i = none) :
    ∃ r : Response, exec i s = .next { s with responses := s.responses ++ [r] } ∧
      FlagsAllowed i r := by
  cases i with
  | mulu | muls | sext => exact ⟨_, rfl, .of_noFlags ⟨rfl, rfl, rfl⟩⟩
  | divu aHi aLo bLo =>
    have hp := (violation_divu_eq_none_iff aHi aLo bLo).mp h
    exact answerWhen_flagsAllowed (.divu aHi aLo bLo) s hp ⟨rfl, rfl, rfl⟩
  | divs aHi aLo bLo =>
    have hp := (violation_divs_eq_none_iff aHi aLo bLo).mp h
    exact answerWhen_flagsAllowed (.divs aHi aLo bLo) s hp ⟨rfl, rfl, rfl⟩
  | shru aHi aLo sh =>
    have hp := (violation_shru_eq_none_iff aHi aLo sh).mp h
    exact answerWhen_flagsAllowed (.shru aHi aLo sh) s hp ⟨rfl, rfl, rfl⟩
  | shrs aHi aLo sh =>
    have hp := (violation_shrs_eq_none_iff aHi aLo sh).mp h
    exact answerWhen_flagsAllowed (.shrs aHi aLo sh) s hp ⟨rfl, rfl, rfl⟩
  | shlnu | shlns => exact ⟨_, rfl, .of_limbResponse _ _ _ (by simp [mnemonic])⟩
  | add | sub | neg => exact ⟨_, rfl, .of_wideResponse _ _ _ (by simp [mnemonic])⟩

/-- Settles O23: a true precondition leaves the flags of the instruction's row; a false one leaves
the free response, whose `ILL` is 0. -/
theorem whichInstructionsSetFlags : Obligations.WhichInstructionsSetFlags := by
  intro i s
  obtain ⟨hdefined, -⟩ | ⟨hbroken, hexec⟩ := exec_cases i s
  · obtain ⟨r, hexec, hflags⟩ := exec_flagsAllowed i s hdefined
    exact ⟨r, s.freeIndex, hexec, hflags.ill, fun _ => ⟨rfl, hflags.ovf, hflags.carry⟩⟩
  · exact ⟨_, _, hexec, freeResponse_ill .., fun hdefined => absurd hdefined hbroken⟩

end Sys2Proof.Machine

/-! PROOFS. The serialised forms (`20_memory.md` R42) and the packed request (`30_encoding.md`
R57). -/

namespace Sys2Proof

/-! ### Packing and unpacking a request (R57) -/

/-- Each field is cut out of the concatenation where R57 puts it. -/
theorem unpackRequest_packRequest (req : Request) : unpackRequest (packRequest req) = req := by
  have haLo : (packRequest req).extractLsb' 0 128 = req.aLo := BitVec.extractLsb'_append_eq_right
  have haHi : (packRequest req).extractLsb' 128 128 = req.aHi := by
    rw [packRequest, BitVec.extractLsb'_append_eq_of_le (by decide)]
    exact BitVec.extractLsb'_append_eq_right
  have hbLo : (packRequest req).extractLsb' 256 128 = req.bLo := by
    rw [packRequest, BitVec.extractLsb'_append_eq_of_le (by decide),
      BitVec.extractLsb'_append_eq_of_le (by decide)]
    exact BitVec.extractLsb'_append_eq_right
  have hbHi : (packRequest req).extractLsb' 384 128 = req.bHi := by
    rw [packRequest, BitVec.extractLsb'_append_eq_of_le (by decide),
      BitVec.extractLsb'_append_eq_of_le (by decide),
      BitVec.extractLsb'_append_eq_of_le (by decide)]
    exact BitVec.extractLsb'_append_eq_right
  have hctrl : (packRequest req).extractLsb' 512 16 = req.ctrl := by
    rw [packRequest, BitVec.extractLsb'_append_eq_of_le (by decide),
      BitVec.extractLsb'_append_eq_of_le (by decide),
      BitVec.extractLsb'_append_eq_of_le (by decide)]
    exact BitVec.extractLsb'_append_eq_left
  rw [unpackRequest, haLo, haHi, hbLo, hbHi, hctrl]

/-- Neighbouring fields join to a longer field, and all five to the whole word. -/
theorem packRequest_unpackRequest (v : BitVec 528) : packRequest (unpackRequest v) = v := by
  rw [packRequest, unpackRequest,
    BitVec.extractLsb'_append_extractLsb'_eq_extractLsb' (start₂ := 512) (start₁ := 384) rfl,
    BitVec.extractLsb'_append_extractLsb'_eq_extractLsb' (start₂ := 384) (start₁ := 256) rfl,
    BitVec.extractLsb'_append_extractLsb'_eq_extractLsb' (start₂ := 256) (start₁ := 128) rfl,
    BitVec.extractLsb'_append_extractLsb'_eq_extractLsb' (start₂ := 128) (start₁ := 0) rfl]
  exact BitVec.extractLsb'_eq_self

/-! ### The bytes of a word (R42) -/

theorem two_pow_eight_mul (n : Nat) : 2 ^ (8 * n) = 256 ^ n := Nat.pow_mul 2 8 n

theorem ofLeBytes_lt (bs : List Byte) : ofLeBytes bs < 256 ^ bs.length := by
  induction bs with
  | nil => simp [ofLeBytes]
  | cons b bs ih =>
    have hb : U b < 256 := b.isLt
    rw [ofLeBytes, List.length_cons, Nat.pow_succ]
    omega

/-- A list of bytes is the bytes of the number it spells. -/
theorem leBytes_ofLeBytes (bs : List Byte) : leBytes bs.length (ofLeBytes bs) = bs := by
  induction bs with
  | nil => rfl
  | cons b bs ih =>
    have hb : U b < 256 := b.isLt
    have hlow : BitVec.ofNat 8 (U b + 256 * ofLeBytes bs) = b :=
      BitVec.eq_of_toNat_eq <| by
        rw [BitVec.toNat_ofNat, Nat.add_mul_mod_self_left, Nat.mod_eq_of_lt hb]
    have hhigh : (U b + 256 * ofLeBytes bs) / 256 = ofLeBytes bs := by omega
    rw [List.length_cons, ofLeBytes, leBytes, hlow, hhigh, ih]

/-- Byte `k` of a word of any width is its bits `8k+7` down to `8k`, zero above the width. -/
theorem leBytes_getElem?_word {w : Nat} (n : Nat) (v : BitVec w) (k : Nat) (h : k < n) :
    (leBytes n (U v))[k]? = some (v.extractLsb' (8 * k) 8) := by
  rw [leBytes_getElem? n (U v) k h, ← two_pow_eight_mul, ← Nat.shiftRight_eq_div_pow]
  rfl

/-- Enough bytes of a word spell it. -/
theorem ofLeBytes_leBytes_word {w n : Nat} (v : BitVec w) (h : w ≤ 8 * n) :
    ofLeBytes (leBytes n (U v)) = U v := by
  have hfits : U v < 256 ^ n := calc
    U v < 2 ^ w := v.isLt
    _ ≤ 2 ^ (8 * n) := Nat.pow_le_pow_right (by decide) h
    _ = 256 ^ n := two_pow_eight_mul n
  rw [ofLeBytes_leBytes, Nat.mod_eq_of_lt hfits]

/-- Bytes that fit a word are the bytes of the word they spell. -/
theorem leBytes_word_ofLeBytes {w : Nat} (bs : List Byte) (h : 8 * bs.length ≤ w) :
    leBytes bs.length (U (BitVec.ofNat w (ofLeBytes bs))) = bs := by
  have hfits : ofLeBytes bs < 2 ^ w := calc
    ofLeBytes bs < 256 ^ bs.length := ofLeBytes_lt bs
    _ = 2 ^ (8 * bs.length) := (two_pow_eight_mul _).symm
    _ ≤ 2 ^ w := Nat.pow_le_pow_right (by decide) h
  rw [U, BitVec.toNat_ofNat, Nat.mod_eq_of_lt hfits, leBytes_ofLeBytes]

/-! ### Serialised requests (R42, R43) -/

@[simp] theorem requestBytes_length (req : Request) : (requestBytes req).length = 66 :=
  leBytes_length 66 _

/-- The bytes of a request spell it. -/
theorem requestOfBytes_requestBytes (req : Request) :
    requestOfBytes (requestBytes req) = some req := by
  rw [requestOfBytes, if_pos (requestBytes_length req), requestBytes,
    ofLeBytes_leBytes_word (packRequest req) (by decide), BitVec.ofNat_toNat, BitVec.setWidth_eq,
    unpackRequest_packRequest]

theorem requestOfBytes_eq_some_iff (bs : List Byte) (req : Request) :
    requestOfBytes bs = some req ↔
      bs.length = 66 ∧ unpackRequest (BitVec.ofNat 528 (ofLeBytes bs)) = req := by
  simp [requestOfBytes]

/-- A list of bytes that spells a request is the bytes of that request. -/
theorem requestBytes_of_requestOfBytes {bs : List Byte} {req : Request}
    (h : requestOfBytes bs = some req) : requestBytes req = bs := by
  obtain ⟨hlen, rfl⟩ := (requestOfBytes_eq_some_iff bs req).mp h
  rw [requestBytes, packRequest_unpackRequest, ← hlen, leBytes_word_ofLeBytes bs (by omega)]

namespace Machine

/-- Settles O44, from the bytes of a word and the packed request. -/
theorem serialisedFormsAreLittleEndian : Obligations.SerialisedFormsAreLittleEndian :=
  ⟨fun req => ⟨requestBytes_length req, requestOfBytes_requestBytes req,
      leBytes_getElem?_word 66 (packRequest req)⟩,
    fun _ _ => requestBytes_of_requestOfBytes,
    fun r => ⟨leBytes_length 33 _, leBytes_getElem?_word 33 (packResponse r)⟩⟩

end Machine

end Sys2Proof

/-! PROOFS. The response is a function of the request (`20_memory.md` R45), and requests are
answered in order (R46, `70_reset_and_hazards.md` R143). -/

namespace Sys2Proof.Machine

/-! ### What a step does with the request it takes -/

theorem step_of_decode_ok {s : State} {req : Request} {rest : List Request} {i : Instr}
    (hr : s.inReset = false) (hq : s.requests = req :: rest) (hd : decode req = .ok i) :
    step s = exec i { s with requests := rest } := by
  simp [step, takeRequest_ready s req rest hr hq, hd]

theorem step_of_decode_error {s : State} {req : Request} {rest : List Request} {e : DecodeError}
    (hr : s.inReset = false) (hq : s.requests = req :: rest) (hd : decode req = .error e) :
    step s =
      .next { s with requests := rest, responses := s.responses ++ [illegalResponse] } := by
  simp [step, takeRequest_ready s req rest hr hq, hd, raiseIllegalRequest, respond]

theorem defined_iff_of_decode_ok {req : Request} {i : Instr} (hd : decode req = .ok i) :
    Defined req ↔ violation i = none := by
  simp [Defined, requestViolation, hd]

theorem defined_of_decode_error {req : Request} {e : DecodeError} (hd : decode req = .error e) :
    Defined req := by
  simp [Defined, requestViolation, hd]

/-- R45 for instructions: one response for every state. -/
theorem exec_same_response_in_every_state {i : Instr} (h : violation i = none) :
    ∃ r : Response, ∀ s : State, exec i s = .next { s with responses := s.responses ++ [r] } := by
  cases i with
  | divu aHi aLo bLo =>
    have hp := (violation_divu_eq_none_iff aHi aLo bLo).mp h
    exact ⟨_, answerWhen_of_true hp _ _⟩
  | divs aHi aLo bLo =>
    have hp := (violation_divs_eq_none_iff aHi aLo bLo).mp h
    exact ⟨_, answerWhen_of_true hp _ _⟩
  | shru aHi aLo sh =>
    have hp := (violation_shru_eq_none_iff aHi aLo sh).mp h
    exact ⟨_, answerWhen_of_true hp _ _⟩
  | shrs aHi aLo sh =>
    have hp := (violation_shrs_eq_none_iff aHi aLo sh).mp h
    exact ⟨_, answerWhen_of_true hp _ _⟩
  | mulu | muls | shlnu | shlns | add | sub | neg | sext => exact ⟨_, answer_eq _⟩

/-- `r` is the answer to `req` in every state that takes it next: whatever was answered before,
whatever stands behind it, whatever the counter of free values. -/
def AnswersEverywhere (req : Request) (r : Response) : Prop :=
  ∀ (s : State) (rest : List Request), s.inReset = false → s.requests = req :: rest →
    step s = .next { s with requests := rest, responses := s.responses ++ [r] }

/-- R45: a defined request has one response. -/
theorem exists_answersEverywhere {req : Request} (h : Defined req) :
    ∃ r : Response, AnswersEverywhere req r := by
  cases hd : decode req with
  | error e => exact ⟨illegalResponse, fun _ _ hr hq => step_of_decode_error hr hq hd⟩
  | ok i =>
    obtain ⟨r, hexec⟩ := exec_same_response_in_every_state ((defined_iff_of_decode_ok hd).mp h)
    exact ⟨r, fun _ _ hr hq => (step_of_decode_ok hr hq hd).trans (hexec _)⟩

/-- A machine fresh from reset is one of the states that take the request next. -/
theorem AnswersEverywhere.fresh {req : Request} {r : Response} (h : AnswersEverywhere req r) :
    step (present req State.reset) = .next { State.reset with responses := [r] } :=
  h (present req State.reset) [] rfl rfl

/-- Settles O31: the one response of the request is the answer in both states. -/
theorem responseIndependentOfHistory : Obligations.ResponseIndependentOfHistory := by
  intro s s' req rest rest' hr hr' hq hq' hdefined
  obtain ⟨r, hanswers⟩ := exists_answersEverywhere hdefined
  exact ⟨r, hanswers s rest hr hq, hanswers s' rest' hr' hq'⟩

/-! ### Streams of requests -/

/-- A request whose precondition is false is answered too, with free values (log 2, log 3). -/
theorem step_of_not_defined {s : State} {req : Request} {rest : List Request}
    (hr : s.inReset = false) (hq : s.requests = req :: rest) (h : ¬ Defined req) :
    ∃ r : Response, step s = .next { s with
      requests := rest, responses := s.responses ++ [r], freeIndex := s.freeIndex + 1 } := by
  cases hd : decode req with
  | error e => exact absurd (defined_of_decode_error hd) h
  | ok i =>
    obtain ⟨hnone, -⟩ | ⟨-, hexec⟩ := exec_cases i { s with requests := rest }
    · exact absurd ((defined_iff_of_decode_ok hd).mpr hnone) h
    · exact ⟨_, (step_of_decode_ok hr hq hd).trans hexec⟩

/-- The response is, for a defined request, its answer in every state. -/
def AnswersIfDefined (req : Request) (r : Response) : Prop :=
  Defined req → AnswersEverywhere req r

/-- R46 for one step: the request taken gets one response. -/
theorem step_answers {s : State} {req : Request} {rest : List Request}
    (hr : s.inReset = false) (hq : s.requests = req :: rest) :
    ∃ (r : Response) (n : Nat), AnswersIfDefined req r ∧
      step s = .next { s with
        requests := rest, responses := s.responses ++ [r], freeIndex := n } := by
  by_cases hdefined : Defined req
  · obtain ⟨r, hanswers⟩ := exists_answersEverywhere hdefined
    exact ⟨r, s.freeIndex, fun _ => hanswers, hanswers s rest hr hq⟩
  · obtain ⟨r, hstep⟩ := step_of_not_defined hr hq hdefined
    exact ⟨r, _, fun h => absurd h hdefined, hstep⟩

/-- R46 for a whole stream, by induction on the requests in flight. -/
theorem run_answers_in_order (reqs : List Request) (s : State) (hr : s.inReset = false)
    (hq : s.requests = reqs) :
    ∃ (rs : List Response) (n : Nat), List.Forall₂ AnswersIfDefined reqs rs ∧
      Host.Core.run Sys2Proof.core reqs.length s =
        .next ({ s with
          requests := [], responses := s.responses ++ rs, freeIndex := n } : State) := by
  induction reqs generalizing s with
  | nil => exact ⟨[], s.freeIndex, .nil, by rw [List.append_nil, List.length_nil, ← hq]; rfl⟩
  | cons req rest ih =>
    obtain ⟨r, m, hanswers, hstep⟩ := step_answers hr hq
    obtain ⟨rs, n, hall, hrun⟩ := ih
      { s with requests := rest, responses := s.responses ++ [r], freeIndex := m } hr rfl
    refine ⟨r :: rs, n, .cons hanswers hall, ?_⟩
    rw [List.length_cons, run_succ_of_next Sys2Proof.core rest.length s _ hstep, hrun,
      List.append_assoc, List.singleton_append]

/-- Settles O32: the stream is answered request by request, and a machine fresh from reset gives a
defined request the answer it has everywhere. -/
theorem streamIsAnsweredInOrder : Obligations.StreamIsAnsweredInOrder := by
  intro s hr
  obtain ⟨rs, n, hall, hrun⟩ := run_answers_in_order s.requests s hr rfl
  refine ⟨rs, n, hrun, hall.length_eq.symm, fun k req r hreq hresp hdefined => ?_⟩
  obtain ⟨hk, rfl⟩ := List.getElem?_eq_some_iff.mp hreq
  obtain ⟨hk', rfl⟩ := List.getElem?_eq_some_iff.mp hresp
  exact (hall.get hk hk' hdefined).fresh

end Sys2Proof.Machine

/-! PROOFS. Decode and encode (`30_encoding.md` R51 to R57, R62): the fields of the control word as
numbers, the opcode map as a relation, and what decode gives in its terms. -/

namespace Sys2Proof

/-! ### Fields as numbers (R51) -/

theorem U_append {m n : Nat} (x : BitVec m) (y : BitVec n) : U (x ++ y) = U x * 2 ^ n + U y := by
  calc U (x ++ y) = U x <<< n ||| U y := BitVec.toNat_append x y
    _ = U x <<< n + U y := (Nat.shiftLeft_add_eq_or_of_lt y.isLt (U x)).symm
    _ = U x * 2 ^ n + U y := by rw [Nat.shiftLeft_eq]

theorem U_extractLsb' {w : Nat} (v : BitVec w) (start len : Nat) :
    U (v.extractLsb' start len) = U v / 2 ^ start % 2 ^ len := by
  rw [U, BitVec.extractLsb'_toNat, Nat.shiftRight_eq_div_pow]

theorem U_ctrlOp (c : BitVec 16) : U (ctrlOp c) = U c % 16 := by
  calc U (ctrlOp c) = U c / 1 % 16 := U_extractLsb' c 0 4
    _ = U c % 16 := by rw [Nat.div_one]

theorem U_ctrlRsv (c : BitVec 16) : U (ctrlRsv c) = U c / 16 % 16 := U_extractLsb' c 4 4

theorem U_ctrlSh (c : BitVec 16) : U (ctrlSh c) = U c / 256 := by
  have hc : U c < 65536 := c.isLt
  rw [ctrlSh, U_extractLsb']
  omega

/-- `U(CTRL) = U(SH) * 256 + U(OP)` (R51); `SH` holds the low eight bits of the count (log 10). -/
theorem U_mkCtrl (sh : Nat) (op : BitVec 4) : U (mkCtrl sh op) = sh % 256 * 256 + U op := by
  have hsh : U (BitVec.ofNat 8 sh) = sh % 256 := BitVec.toNat_ofNat sh 8
  have hrsv : U (0#4) = 0 := rfl
  rw [mkCtrl, U_append, U_append, hsh, hrsv]
  omega

theorem mkCtrl_eq_ofNat (sh : Nat) (op : BitVec 4) :
    mkCtrl sh op = BitVec.ofNat 16 (sh % 256 * 256 + U op) := by
  rw [← U_mkCtrl, BitVec.ofNat_toNat, BitVec.setWidth_eq]

/-- A control word is rebuilt from its `SH` and its opcode when `RSV` is zero. -/
theorem mkCtrl_eq_of_mod {c : BitVec 16} {op : BitVec 4} (h : U c % 256 = U op) :
    mkCtrl (U c / 256) op = c := by
  have hc : U c < 65536 := c.isLt
  apply BitVec.eq_of_toNat_eq
  change U (mkCtrl (U c / 256) op) = U c
  rw [U_mkCtrl]
  omega

theorem ctrlRsv_eq_zero_iff (c : BitVec 16) : ctrlRsv c = 0#4 ↔ U c / 16 % 16 = 0 := by
  rw [← BitVec.toNat_inj, ← U_ctrlRsv]
  rfl

/-! ### The opcode map as a relation (R53, R54) -/

/-- `OpcodeMap req k i`: row `k` of the opcode map (R54) makes the request the instruction `i`, with
the operands of R53. -/
inductive OpcodeMap (req : Request) : Nat → Instr → Prop
  | mulu : OpcodeMap req 0x0 (.mulu req.aLo req.bLo)
  | muls : OpcodeMap req 0x1 (.muls req.aLo req.bLo)
  | divu : OpcodeMap req 0x2 (.divu req.aHi req.aLo req.bLo)
  | divs : OpcodeMap req 0x3 (.divs req.aHi req.aLo req.bLo)
  | shru {sh : Nat} (hsh : U req.ctrl / 256 = sh) : OpcodeMap req 0x4 (.shru req.aHi req.aLo sh)
  | shrs {sh : Nat} (hsh : U req.ctrl / 256 = sh) : OpcodeMap req 0x5 (.shrs req.aHi req.aLo sh)
  | shlnu {sh : Nat} (hsh : U req.ctrl / 256 = sh) : OpcodeMap req 0x6 (.shlnu req.aHi req.aLo sh)
  | shlns {sh : Nat} (hsh : U req.ctrl / 256 = sh) : OpcodeMap req 0x7 (.shlns req.aHi req.aLo sh)
  | add : OpcodeMap req 0x8 (.add req.aHi req.aLo req.bHi req.bLo)
  | sub : OpcodeMap req 0x9 (.sub req.aHi req.aLo req.bHi req.bLo)
  | neg : OpcodeMap req 0xA (.neg req.aHi req.aLo)
  | sext : OpcodeMap req 0xB (.sext req.aLo)

namespace OpcodeMap

variable {req : Request} {k : Nat} {i : Instr}

theorem lt (h : OpcodeMap req k i) : k < 12 := by cases h <;> decide

theorem exists_of_lt (req : Request) {k : Nat} (hk : k < 12) : ∃ i, OpcodeMap req k i :=
  match k, hk with
  | 0, _ => ⟨_, .mulu⟩
  | 1, _ => ⟨_, .muls⟩
  | 2, _ => ⟨_, .divu⟩
  | 3, _ => ⟨_, .divs⟩
  | 4, _ => ⟨_, .shru rfl⟩
  | 5, _ => ⟨_, .shrs rfl⟩
  | 6, _ => ⟨_, .shlnu rfl⟩
  | 7, _ => ⟨_, .shlns rfl⟩
  | 8, _ => ⟨_, .add⟩
  | 9, _ => ⟨_, .sub⟩
  | 10, _ => ⟨_, .neg⟩
  | 11, _ => ⟨_, .sext⟩

/-- The relation is the table of R54: row `k` has the mnemonic of the instruction, matches `k`, and
its mask leaves `SH` out. -/
theorem opcodeTable_getElem? (h : OpcodeMap req k i) :
    opcodeTable[k]? = some ⟨mnemonic i, BitVec.ofNat 16 k, 0x00FF#16⟩ := by
  cases h <;> rfl

theorem mnemonic_eq (h : OpcodeMap req k i) :
    mnemonic i = (opcodeTable.map (·.mnemonic)).getD k "" := by
  cases h <;> rfl

theorem wellFormed (h : OpcodeMap req k i) : i.wellFormed = true := by
  have hc : U req.ctrl < 65536 := req.ctrl.isLt
  cases h with
  | shru hsh | shrs hsh | shlnu hsh | shlns hsh => exact decide_eq_true (by omega)
  | mulu | muls | divu | divs | add | sub | neg | sext => rfl

end OpcodeMap

/-! ### Decode (R55, R62) -/

/-- A non-zero `RSV` is an error whatever `OP` is. -/
theorem decode_of_reservedBits {req : Request} (h : U req.ctrl / 16 % 16 ≠ 0) :
    decode req = .error (.reservedBits (ctrlRsv req.ctrl)) :=
  if_pos (mt (ctrlRsv_eq_zero_iff req.ctrl).mp h)

theorem decode_of_reservedOpcode {req : Request} (hrsv : U req.ctrl / 16 % 16 = 0)
    (h : 12 ≤ U req.ctrl % 16) : decode req = .error (.reservedOpcode (ctrlOp req.ctrl)) := by
  obtain ⟨n, hn⟩ := Nat.exists_eq_add_of_le' h
  rw [decode, if_neg (not_not.mpr ((ctrlRsv_eq_zero_iff req.ctrl).mpr hrsv)), U_ctrlOp, hn]
  rfl

/-- A request whose low byte of `CTRL` is the row `k` decodes to the instruction of the row. -/
theorem decode_of_row {req : Request} {k : Nat} {i : Instr} (hrow : OpcodeMap req k i)
    (h : U req.ctrl % 256 = k) : decode req = .ok i := by
  have hlt := hrow.lt
  have hrsv : ctrlRsv req.ctrl = 0#4 := (ctrlRsv_eq_zero_iff req.ctrl).mpr (by omega)
  have hop : U (ctrlOp req.ctrl) = k := by rw [U_ctrlOp]; omega
  rw [decode, if_neg (not_not.mpr hrsv), hop, U_ctrlSh]
  cases hrow with
  | shru hsh | shrs hsh | shlnu hsh | shlns hsh => rw [hsh]; rfl
  | mulu | muls | divu | divs | add | sub | neg | sext => rfl

/-- R55: past the last row there is no instruction, whether `OP` or `RSV` is at fault. -/
theorem exists_decode_error {req : Request} (h : 12 ≤ U req.ctrl % 256) :
    ∃ e, decode req = .error e := by
  by_cases hrsv : U req.ctrl / 16 % 16 = 0
  · exact ⟨_, decode_of_reservedOpcode hrsv (by omega)⟩
  · exact ⟨_, decode_of_reservedBits hrsv⟩

/-- Decode follows the opcode map, with the low byte of `CTRL` as the row. -/
theorem decode_eq_ok_iff (req : Request) (i : Instr) :
    decode req = .ok i ↔ OpcodeMap req (U req.ctrl % 256) i := by
  refine ⟨fun hd => ?_, fun hrow => decode_of_row hrow rfl⟩
  by_cases hlt : U req.ctrl % 256 < 12
  · obtain ⟨j, hrow⟩ := OpcodeMap.exists_of_lt req hlt
    obtain rfl : i = j := Except.ok.inj (hd.symm.trans (decode_of_row hrow rfl))
    exact hrow
  · obtain ⟨e, he⟩ := exists_decode_error (Nat.le_of_not_lt hlt)
    cases hd.symm.trans he

/-- Two requests that their rows make the same instruction decode alike. -/
theorem decode_eq_of_same_row {req req' : Request} {k : Nat} {i : Instr}
    (hrow : OpcodeMap req k i) (hrow' : OpcodeMap req' k i) (h : U req.ctrl % 256 = k)
    (h' : U req'.ctrl % 256 = k) : decode req' = decode req :=
  (decode_of_row hrow' h').trans (decode_of_row hrow h).symm

theorem eq_of_decode_of_row {req : Request} {k : Nat} {i j : Instr} (hd : decode req = .ok i)
    (hrow : OpcodeMap req k j) (h : U req.ctrl % 256 = k) : i = j :=
  Except.ok.inj (hd.symm.trans (decode_of_row hrow h))

/-! ### The canonical requests, written out (R57) -/

theorem encode_mulu (aLo bLo : Limb) :
    encode (.mulu aLo bLo) = ⟨0x0000#16, aLo, 0#128, bLo, 0#128⟩ := by
  rw [encode, mkCtrl_eq_ofNat]; rfl

theorem encode_muls (aLo bLo : Limb) :
    encode (.muls aLo bLo) = ⟨0x0001#16, aLo, 0#128, bLo, 0#128⟩ := by
  rw [encode, mkCtrl_eq_ofNat]; rfl

theorem encode_divu (aHi aLo bLo : Limb) :
    encode (.divu aHi aLo bLo) = ⟨0x0002#16, aLo, aHi, bLo, 0#128⟩ := by
  rw [encode, mkCtrl_eq_ofNat]; rfl

theorem encode_divs (aHi aLo bLo : Limb) :
    encode (.divs aHi aLo bLo) = ⟨0x0003#16, aLo, aHi, bLo, 0#128⟩ := by
  rw [encode, mkCtrl_eq_ofNat]; rfl

theorem encode_shru (aHi aLo : Limb) (sh : Nat) : encode (.shru aHi aLo sh) =
    ⟨BitVec.ofNat 16 (sh % 256 * 256 + 4), aLo, aHi, 0#128, 0#128⟩ := by
  rw [encode, mkCtrl_eq_ofNat]; rfl

theorem encode_shrs (aHi aLo : Limb) (sh : Nat) : encode (.shrs aHi aLo sh) =
    ⟨BitVec.ofNat 16 (sh % 256 * 256 + 5), aLo, aHi, 0#128, 0#128⟩ := by
  rw [encode, mkCtrl_eq_ofNat]; rfl

theorem encode_shlnu (aHi aLo : Limb) (sh : Nat) : encode (.shlnu aHi aLo sh) =
    ⟨BitVec.ofNat 16 (sh % 256 * 256 + 6), aLo, aHi, 0#128, 0#128⟩ := by
  rw [encode, mkCtrl_eq_ofNat]; rfl

theorem encode_shlns (aHi aLo : Limb) (sh : Nat) : encode (.shlns aHi aLo sh) =
    ⟨BitVec.ofNat 16 (sh % 256 * 256 + 7), aLo, aHi, 0#128, 0#128⟩ := by
  rw [encode, mkCtrl_eq_ofNat]; rfl

theorem encode_add (aHi aLo bHi bLo : Limb) :
    encode (.add aHi aLo bHi bLo) = ⟨0x0008#16, aLo, aHi, bLo, bHi⟩ := by
  rw [encode, mkCtrl_eq_ofNat]; rfl

theorem encode_sub (aHi aLo bHi bLo : Limb) :
    encode (.sub aHi aLo bHi bLo) = ⟨0x0009#16, aLo, aHi, bLo, bHi⟩ := by
  rw [encode, mkCtrl_eq_ofNat]; rfl

theorem encode_neg (aHi aLo : Limb) :
    encode (.neg aHi aLo) = ⟨0x000A#16, aLo, aHi, 0#128, 0#128⟩ := by
  rw [encode, mkCtrl_eq_ofNat]; rfl

theorem encode_sext (aLo : Limb) :
    encode (.sext aLo) = ⟨0x000B#16, aLo, 0#128, 0#128, 0#128⟩ := by
  rw [encode, mkCtrl_eq_ofNat]; rfl

/-! ### Decode of encode (R57) -/

/-- The count of a shift is read back from its control word when it fits `SH`. -/
theorem U_mkCtrl_div {sh : Nat} (h : shiftCountFits sh = true) (op : BitVec 4) :
    U (mkCtrl sh op) / 256 = sh := by
  have hsh : sh < 256 := of_decide_eq_true h
  have hop : U op < 16 := op.isLt
  rw [U_mkCtrl]
  omega

theorem U_mkCtrl_mod (sh : Nat) (op : BitVec 4) : U (mkCtrl sh op) % 256 = U op := by
  have hop : U op < 16 := op.isLt
  rw [U_mkCtrl]
  omega

/-- The low byte of the canonical control word is the opcode. -/
theorem U_encode_ctrl_mod (i : Instr) : U (encode i).ctrl % 256 = U (opcode i) := by
  cases i <;> exact U_mkCtrl_mod _ _

/-- The row of its opcode makes the canonical request of a well-formed instruction that
instruction. -/
theorem opcodeMap_encode {i : Instr} (h : i.wellFormed = true) :
    OpcodeMap (encode i) (U (opcode i)) i := by
  cases i with
  | mulu => exact .mulu
  | muls => exact .muls
  | divu => exact .divu
  | divs => exact .divs
  | shru => exact .shru (U_mkCtrl_div h _)
  | shrs => exact .shrs (U_mkCtrl_div h _)
  | shlnu => exact .shlnu (U_mkCtrl_div h _)
  | shlns => exact .shlns (U_mkCtrl_div h _)
  | add => exact .add
  | sub => exact .sub
  | neg => exact .neg
  | sext => exact .sext

theorem decode_encode {i : Instr} (h : i.wellFormed = true) : decode (encode i) = .ok i :=
  decode_of_row (opcodeMap_encode h) (U_encode_ctrl_mod i)

/-- The canonical request of a shift keeps the whole control word. -/
theorem encode_of_shift_row {req : Request} {k : Nat} {i : Instr} (hrow : OpcodeMap req k i)
    (hk : U req.ctrl % 256 = k) (hge : 0x4 ≤ k) (hle : k ≤ 0x7) :
    encode i = ⟨req.ctrl, req.aLo, req.aHi, 0#128, 0#128⟩ := by
  cases hrow with
  | shru hsh | shrs hsh | shlnu hsh | shlns hsh =>
    subst hsh
    rw [encode, mkCtrl_eq_of_mod]
    exact hk
  | mulu | muls | divu | divs | add | sub | neg | sext => omega

theorem decodeBytes_requestBytes (req : Request) : decodeBytes (requestBytes req) = decode req := by
  rw [decodeBytes, requestOfBytes_requestBytes]

/-! ### The rows and the control words they select (R54) -/

/-- The rows of the table are those of the relation. -/
theorem exists_opcodeMap_of_mem {row : OpcodeRow} (h : row ∈ opcodeTable) (req : Request) :
    ∃ (k : Nat) (i : Instr), OpcodeMap req k i ∧
      row = ⟨mnemonic i, BitVec.ofNat 16 k, 0x00FF#16⟩ := by
  obtain ⟨k, hk⟩ := List.mem_iff_getElem?.mp h
  obtain ⟨hlt, -⟩ := List.getElem?_eq_some_iff.mp hk
  obtain ⟨i, hrow⟩ := OpcodeMap.exists_of_lt req hlt
  exact ⟨k, i, hrow, Option.some.inj (hk.symm.trans hrow.opcodeTable_getElem?)⟩

/-- A row selects the control words whose low byte is its number. -/
theorem selects_iff {k : Nat} (hk : k < 12) (name : String) (c : BitVec 16) :
    OpcodeRow.selects ⟨name, BitVec.ofNat 16 k, 0x00FF#16⟩ c = true ↔ U c % 256 = k := by
  have hmask : U (c &&& 0x00FF#16) = U c % 256 :=
    (BitVec.toNat_and ..).trans (Nat.and_two_pow_sub_one_eq_mod (U c) 8)
  have hmatch : U (BitVec.ofNat 16 k) = k := Nat.mod_eq_of_lt (by omega)
  rw [OpcodeRow.selects, beq_iff_eq, ← BitVec.toNat_inj, ← hmask]
  exact ⟨fun h => h.trans hmatch, fun h => h.trans hmatch.symm⟩

namespace Machine

/-! ### The statements on decode and encode -/

/-- Settles O40: the canonical request decodes to the instruction, and its bytes decode as it
does. -/
theorem decodeEncodeRoundTrip : Obligations.DecodeEncodeRoundTrip := fun i h =>
  ⟨decode_encode h, (decodeBytes_requestBytes (encode i)).trans (decode_encode h)⟩

/-- Settles O28: the row of the low byte of `CTRL`, or past the last row an error. -/
theorem decodeIsTotal : Obligations.DecodeIsTotal := by
  intro req
  refine ⟨fun hrsv => ⟨_, decode_of_reservedBits hrsv⟩,
    fun hrsv hop => ⟨_, decode_of_reservedOpcode hrsv hop⟩, fun hrsv hop => ?_⟩
  obtain ⟨i, hrow⟩ := OpcodeMap.exists_of_lt req hop
  exact ⟨i, decode_of_row hrow (by omega), hrow.mnemonic_eq⟩

/-- Settles O29: a selected row is the row of the low byte of `CTRL`, the one that decode
follows. -/
theorem opcodeMapIsUnambiguous : Obligations.OpcodeMapIsUnambiguous := by
  refine ⟨fun row hmem row' hmem' c hsel hsel' => ?_, fun row hmem req hsel => ?_,
    fun req i hd => ?_⟩
  · obtain ⟨k, i, hrow, rfl⟩ := exists_opcodeMap_of_mem hmem ⟨c, 0, 0, 0, 0⟩
    obtain ⟨k', i', hrow', rfl⟩ := exists_opcodeMap_of_mem hmem' ⟨c, 0, 0, 0, 0⟩
    have hk : U c % 256 = k := (selects_iff hrow.lt _ c).mp hsel
    have hk' : U c % 256 = k' := (selects_iff hrow'.lt _ c).mp hsel'
    obtain rfl : i = i' := eq_of_decode_of_row (decode_of_row hrow hk) hrow' hk'
    rw [← hk, ← hk']
  · obtain ⟨k, i, hrow, rfl⟩ := exists_opcodeMap_of_mem hmem req
    exact ⟨i, decode_of_row hrow ((selects_iff hrow.lt _ _).mp hsel), rfl⟩
  · have hrow := (decode_eq_ok_iff req i).mp hd
    exact ⟨_, List.mem_of_getElem? hrow.opcodeTable_getElem?,
      (selects_iff hrow.lt _ _).mpr rfl, rfl⟩

/-- Settles O30: with the ignored fields changed, the same row gives the same instruction. -/
theorem ignoredFieldsDoNotMatter : Obligations.IgnoredFieldsDoNotMatter := by
  intro req c x y z hc
  generalize hk : U req.ctrl % 256 = k at hc ⊢
  refine ⟨fun h => ?_, fun h h' => ?_, fun h h' => ?_, fun h h' => ?_, fun h => ?_, fun h => ?_⟩
  · obtain rfl | rfl : k = 0x0 ∨ k = 0x1 := by omega
    · exact decode_eq_of_same_row .mulu .mulu hk hc
    · exact decode_eq_of_same_row .muls .muls hk hc
  · obtain rfl | rfl : k = 0x2 ∨ k = 0x3 := by omega
    · exact decode_eq_of_same_row .divu .divu hk hc
    · exact decode_eq_of_same_row .divs .divs hk hc
  · obtain rfl | rfl | rfl | rfl : k = 0x4 ∨ k = 0x5 ∨ k = 0x6 ∨ k = 0x7 := by omega
    · exact decode_eq_of_same_row (.shru rfl) (.shru rfl) hk hk
    · exact decode_eq_of_same_row (.shrs rfl) (.shrs rfl) hk hk
    · exact decode_eq_of_same_row (.shlnu rfl) (.shlnu rfl) hk hk
    · exact decode_eq_of_same_row (.shlns rfl) (.shlns rfl) hk hk
  · obtain rfl | rfl : k = 0x8 ∨ k = 0x9 := by omega
    · exact decode_eq_of_same_row .add .add hk hc
    · exact decode_eq_of_same_row .sub .sub hk hc
  · obtain rfl := h
    exact decode_eq_of_same_row .neg .neg hk hc
  · obtain rfl := h
    exact decode_eq_of_same_row .sext .sext hk hc

/-- Settles O41: in the row of the low byte of `CTRL` the canonical request is read off. -/
theorem decodedInstructionsEncodeCanonically :
    Obligations.DecodedInstructionsEncodeCanonically := by
  intro req i hd
  have hrow := (decode_eq_ok_iff req i).mp hd
  have hencode {k : Nat} {j : Instr} {canonical : Request} (hrow : OpcodeMap req k j)
      (hj : encode j = canonical) (hk : U req.ctrl % 256 = k) : encode i = canonical :=
    eq_of_decode_of_row hd hrow hk ▸ hj
  exact ⟨hrow.wellFormed, hrow.lt,
    hencode .mulu (encode_mulu ..), hencode .muls (encode_muls ..),
    hencode .divu (encode_divu ..), hencode .divs (encode_divs ..),
    encode_of_shift_row hrow rfl,
    hencode .add (encode_add ..), hencode .sub (encode_sub ..),
    hencode .neg (encode_neg ..), hencode .sext (encode_sext ..)⟩

end Machine

end Sys2Proof

/-! PROOFS. The numbers that the packed forms spell (`30_encoding.md` R57, R58). -/

namespace Sys2Proof.Machine

/-- R57: each field counts from its lowest bit. -/
theorem U_packRequest (req : Request) : U (packRequest req) = U req.ctrl * 2 ^ 512 +
    U req.bHi * 2 ^ 384 + U req.bLo * 2 ^ 256 + U req.aHi * 2 ^ 128 + U req.aLo := by
  have h512 : 2 ^ 512 = (2 ^ 128) ^ 4 := by rw [← Nat.pow_mul]
  have h384 : 2 ^ 384 = (2 ^ 128) ^ 3 := by rw [← Nat.pow_mul]
  have h256 : 2 ^ 256 = (2 ^ 128) ^ 2 := by rw [← Nat.pow_mul]
  rw [packRequest, U_append, U_append, U_append, U_append, h512, h384, h256]
  ring

/-- Settles O42, from the two inverse laws and the value of the packed request. -/
theorem packedRequestLayout : Obligations.PackedRequestLayout :=
  ⟨unpackRequest_packRequest, packRequest_unpackRequest, U_packRequest⟩

/-- Each field is cut out of the concatenation where R58 puts it. -/
theorem unpackResponse_packResponse (r : Response) : unpackResponse (packResponse r) = r := by
  have hrLo : (packResponse r).extractLsb' 0 128 = r.rLo := BitVec.extractLsb'_append_eq_right
  have hrHi : (packResponse r).extractLsb' 128 128 = r.rHi := by
    rw [packResponse, BitVec.extractLsb'_append_eq_of_le (by decide)]
    exact BitVec.extractLsb'_append_eq_right
  have hovf : (packResponse r).getLsbD 256 = r.ovf := by
    rw [packResponse, BitVec.getLsbD_append, if_neg (by decide),
      BitVec.getLsbD_append, if_neg (by decide), BitVec.getLsbD_append, if_pos (by decide)]
    exact BitVec.getLsbD_ofBool ..
  have hcarry : (packResponse r).getLsbD 257 = r.carry := by
    rw [packResponse, BitVec.getLsbD_append, if_neg (by decide),
      BitVec.getLsbD_append, if_neg (by decide), BitVec.getLsbD_append, if_neg (by decide),
      BitVec.getLsbD_append, if_pos (by decide)]
    exact BitVec.getLsbD_ofBool ..
  have hill : (packResponse r).getLsbD 258 = r.ill := by
    rw [packResponse, BitVec.getLsbD_append, if_neg (by decide),
      BitVec.getLsbD_append, if_neg (by decide), BitVec.getLsbD_append, if_neg (by decide),
      BitVec.getLsbD_append, if_neg (by decide)]
    exact BitVec.getLsbD_ofBool ..
  rw [unpackResponse, hrLo, hrHi, hovf, hcarry, hill]

/-- A flag is a field of one bit. -/
theorem ofBool_getLsbD {w : Nat} (v : BitVec w) (n : Nat) :
    BitVec.ofBool (v.getLsbD n) = v.extractLsb' n 1 := by
  apply BitVec.eq_of_getLsbD_eq
  intro i hi
  obtain rfl : i = 0 := by omega
  simp

/-- Neighbouring fields join to a longer field, and all five to the whole word. -/
theorem packResponse_unpackResponse (v : BitVec 259) : packResponse (unpackResponse v) = v := by
  rw [packResponse, unpackResponse, ofBool_getLsbD, ofBool_getLsbD, ofBool_getLsbD,
    BitVec.extractLsb'_append_extractLsb'_eq_extractLsb' (start₂ := 258) (start₁ := 257) rfl,
    BitVec.extractLsb'_append_extractLsb'_eq_extractLsb' (start₂ := 257) (start₁ := 256) rfl,
    BitVec.extractLsb'_append_extractLsb'_eq_extractLsb' (start₂ := 256) (start₁ := 128) rfl,
    BitVec.extractLsb'_append_extractLsb'_eq_extractLsb' (start₂ := 128) (start₁ := 0) rfl]
  exact BitVec.extractLsb'_eq_self

/-- R58: the flags are the digit above the 256-bit result. -/
theorem U_packResponse (r : Response) : U (packResponse r) =
    (r.ovf.toNat + 2 * r.carry.toNat + 4 * r.ill.toNat) * 2 ^ 256 + U (double r.rHi r.rLo) := by
  have hflag (b : Bool) : U (BitVec.ofBool b) = b.toNat := BitVec.toNat_ofBool b
  rw [packResponse, U_append, U_append, U_append, U_append, hflag, hflag, hflag, U_double]
  ring

/-- Settles O43, from the two inverse laws and the value of the packed response. -/
theorem packedResponseLayout : Obligations.PackedResponseLayout :=
  ⟨unpackResponse_packResponse, packResponse_unpackResponse, U_packResponse⟩

end Sys2Proof.Machine

/-! PROOFS. What the lines of `30_encoding.md` R60 assemble to, and the pseudo-instructions
(R61). -/

namespace Sys2Proof.Machine

/-! ### What a line expands and assembles to -/

theorem expand_double {env : Env} {o : Op256} {v : Double} (h : evalOp256 env o = some v)
    (b : Option String) (m : Mnemonic) :
    expand env ⟨b, m, .double o⟩ = expandDouble m v := by
  simp only [expand, h, Option.bind_some]

theorem expand_doubleCount {env : Env} {o : Op256} {v : Double} (h : evalOp256 env o = some v)
    (b : Option String) (m : Mnemonic) (c : Nat) :
    expand env ⟨b, m, .doubleCount o c⟩ = expandCount m v c := by
  simp only [expand, h, Option.bind_some]

theorem assemble_of_expand {env : Env} {l : Line} {i : Instr}
    (h : expand env l = some (.request i)) : assemble env l = some (encode i) := by
  rw [assemble, h]

/-- Settles O55: a line assembles to the canonical request of the instruction it expands to. -/
theorem operandsGoToTheirPorts : Obligations.OperandsGoToTheirPorts := by
  intro env b x y p q vx vy vp vq c hx hy hp hq hc
  have hassemble {l : Line} {i : Instr} {canonical : Request}
      (hl : expand env l = some (.request i)) (hi : encode i = canonical) :
      assemble env l = some canonical := hi ▸ assemble_of_expand hl
  have hcount : c % 256 = c := Nat.mod_eq_of_lt hc
  refine ⟨hassemble ?_ (encode_mulu ..), hassemble ?_ (encode_muls ..),
    hassemble ?_ (encode_divu ..), hassemble ?_ (encode_divs ..),
    hassemble (expand_doubleCount hp ..) (by rw [encode_shru, hcount]),
    hassemble (expand_doubleCount hp ..) (by rw [encode_shrs, hcount]),
    hassemble (expand_doubleCount hp ..) (by rw [encode_shlnu, hcount]),
    hassemble (expand_doubleCount hp ..) (by rw [encode_shlns, hcount]),
    hassemble ?_ (encode_add ..), hassemble ?_ (encode_sub ..),
    hassemble (expand_double hp ..) (encode_neg ..), hassemble ?_ (encode_sext ..)⟩
  all_goals simp only [expand, hx, hy, hp, hq]

/-! ### The value of a double-width operand, by its limbs -/

theorem U_eq_limbs (v : Double) : U v = U (hiLimb v) * 2 ^ 128 + U (loLimb v) := by
  rw [← U_double, double_limbs]

theorem S_eq_limbs (v : Double) : S v = S (hiLimb v) * 2 ^ 128 + (U (loLimb v) : Int) := by
  rw [← S_double, double_limbs]

theorem U_mod_eq_loLimb (v : Double) : U v % 2 ^ 128 = U (loLimb v) := by
  have hlo : U (loLimb v) < 2 ^ 128 := (loLimb v).isLt
  rw [U_eq_limbs v]
  omega

theorem S_emod_eq_loLimb (v : Double) : S v % 2 ^ 128 = (U (loLimb v) : Int) := by
  have hlo : U (loLimb v) < 2 ^ 128 := (loLimb v).isLt
  rw [S_eq_limbs v]
  omega

theorem hiLimb_ne_zero_iff (v : Double) : hiLimb v ≠ 0#128 ↔ 2 ^ 128 ≤ U v := by
  have hlo : U (loLimb v) < 2 ^ 128 := (loLimb v).isLt
  have hzero : hiLimb v = 0#128 ↔ U (hiLimb v) = 0 := BitVec.toNat_inj.symm
  rw [Ne, hzero, U_eq_limbs v]
  omega

/-! ### The narrowing shifts by their window (`42_shift.md` R93, R94) -/

/-- `bv_N(i)` is `i mod 2^N` (R7). -/
theorem U_bv (n : Nat) (i : Int) : (U (bv n i) : Int) = i % 2 ^ n := by
  have hpos : (0 : Int) < 2 ^ n := by positivity
  rw [U, bv, BitVec.toNat_ofInt, Nat.cast_pow, Nat.cast_ofNat,
    Int.toNat_of_nonneg (Int.emod_nonneg i hpos.ne')]

/-- SHLNU answers the low limb of its window `w`, and whether `w` is wider than that. -/
theorem exec_shlnu_window (s : State) {v : Double} {sh w : Nat}
    (hw : U v * 2 ^ sh / 2 ^ 128 = w) : ∃ r : Response,
      exec (.shlnu (hiLimb v) (loLimb v) sh) s =
        .next { s with responses := s.responses ++ [r] } ∧
      U r.rLo = w % 2 ^ 128 ∧ (r.ovf = true ↔ 2 ^ 128 ≤ w) := by
  have hexec : exec (.shlnu (hiLimb v) (loLimb v) sh) s =
      answer (limbResponse 0#128 (bv 128 w) (narrowOverflowU w)) s := by
    rw [exec, execShlnu, double_limbs, floorShift_eq_div, hw]
  refine ⟨_, hexec, ?_, decide_eq_true_iff⟩
  have hrLo := U_bv 128 w
  exact_mod_cast hrLo

/-- SHLNS, as SHLNU on the signed window. -/
theorem exec_shlns_window (s : State) {v : Double} {sh : Nat} {w : Int}
    (hw : S v * 2 ^ sh / 2 ^ 128 = w) : ∃ r : Response,
      exec (.shlns (hiLimb v) (loLimb v) sh) s =
        .next { s with responses := s.responses ++ [r] } ∧
      (U r.rLo : Int) = w % 2 ^ 128 ∧ (r.ovf = true ↔ w < -2 ^ 127 ∨ 2 ^ 127 - 1 < w) := by
  have hexec : exec (.shlns (hiLimb v) (loLimb v) sh) s = answer (limbResponse
      (copies ((bv 128 w).getLsbD 127)) (bv 128 w) (narrowOverflowS w)) s := by
    rw [exec, execShlns, double_limbs, floorShiftInt_eq_ediv, hw]
  exact ⟨_, hexec, U_bv 128 w, decide_eq_true_iff⟩

/-! ### The windows of the pseudo-instructions (R61) -/

theorem window_of_narrow (x : Int) : x * 2 ^ 128 / 2 ^ 128 = x :=
  Int.mul_ediv_cancel x (by decide)

theorem window_of_rescale (x : Int) {f : Nat} (hf : f ≤ 128) :
    x * 2 ^ (128 - f) / 2 ^ 128 = x / 2 ^ f := by
  rw [← pow_mul_pow_sub (2 : Int) hf]
  exact Int.mul_ediv_mul_of_pos_left x _ (by positivity)

theorem window_of_shiftLeft (x : Int) (k : Nat) : x * 2 ^ (128 + k) / 2 ^ 128 = x * 2 ^ k := by
  rw [pow_add, mul_left_comm, Int.mul_ediv_cancel_left _ (by decide)]

/-- Settles O56: each expands to an SHLNU, whose window is what the "Use" column says. -/
theorem unsignedPseudoInstructions : Obligations.UnsignedPseudoInstructions := by
  intro s env b o v ho
  refine ⟨?_, fun f hf => ?_, fun k hk => ?_⟩
  · obtain ⟨r, hexec, hrLo, hovf⟩ := exec_shlnu_window s
      (by exact_mod_cast window_of_narrow (U v))
    exact ⟨_, r, expand_double ho b .narrowu, hexec,
      BitVec.eq_of_toNat_eq (hrLo.trans (U_mod_eq_loLimb v)),
      hovf.trans (hiLimb_ne_zero_iff v).symm⟩
  · obtain ⟨r, hexec, hrLo, hovf⟩ := exec_shlnu_window s
      (by exact_mod_cast window_of_rescale (U v) hf)
    exact ⟨_, r, (expand_doubleCount ho b .rscu f).trans (if_pos hf), hexec, hrLo, hovf⟩
  · obtain ⟨r, hexec, hrLo, hovf⟩ := exec_shlnu_window s
      (by exact_mod_cast window_of_shiftLeft (U v) k)
    exact ⟨_, r, (expand_doubleCount ho b .shllou k).trans (if_pos hk), hexec, hrLo, hovf⟩

/-- Settles O57: as O56, with SHLNS; the host's own values are read off the expansion. -/
theorem signedAndHostPseudoInstructions : Obligations.SignedAndHostPseudoInstructions := by
  intro s env b o v x vx ho hx
  refine ⟨?_, fun f hf => ?_, fun k hk => ?_, expand_double ho b .casts,
    expand_double ho b .castu, ?_⟩
  · obtain ⟨r, hexec, hrLo, hovf⟩ := exec_shlns_window s (window_of_narrow (S v))
    exact ⟨_, r, expand_double ho b .narrows, hexec,
      BitVec.eq_of_toNat_eq (Int.ofNat.inj (hrLo.trans (S_emod_eq_loLimb v))), hovf⟩
  · obtain ⟨r, hexec, hrLo, hovf⟩ := exec_shlns_window s (window_of_rescale (S v) hf)
    exact ⟨_, r, (expand_doubleCount ho b .rscs f).trans (if_pos hf), hexec, hrLo, hovf⟩
  · obtain ⟨r, hexec, hrLo, hovf⟩ := exec_shlns_window s (window_of_shiftLeft (S v) k)
    exact ⟨_, r, (expand_doubleCount ho b .shllos k).trans (if_pos hk), hexec, hrLo, hovf⟩
  · simp only [expand, hx]

/-! ### One step, and the words of the table (R51, R62) -/

/-- Settles O25, by what a step does with a request that decodes. -/
theorem stepRunsTheDecodedRequest : Obligations.StepRunsTheDecodedRequest :=
  fun _ _ _ _ => step_of_decode_ok

/-- Settles O39: the words are closed, and the decoder runs on each. -/
theorem wordsDecodeAsTheSpecSays : Obligations.WordsDecodeAsTheSpecSays :=
  ⟨rfl, rfl, rfl, rfl, rfl, rfl, rfl, rfl⟩

end Sys2Proof.Machine

/-! PROOFS. Widening multiply: the contract (`40_widening_multiply.md` R70, R71) and the reference
datapath (R72 to R75). -/

namespace Sys2Proof.Machine

/-! ### Words that hold the integer they are made from (R7) -/

theorem U_bv_of_lt {n p : Nat} (h : p < 2 ^ n) : U (bv n p) = p := by
  rw [U, bv, BitVec.ofInt_natCast, BitVec.toNat_ofNat, Nat.mod_eq_of_lt h]

theorem loLimb_bv (i : Int) : loLimb (bv 256 i) = bv 128 i := by
  have hwide := U_bv 256 i
  have hlimb := U_bv 128 i
  have hlow := U_mod_eq_loLimb (bv 256 i)
  apply BitVec.eq_of_toNat_eq
  change U (loLimb (bv 256 i)) = U (bv 128 i)
  omega

/-! ### The contract (R70, R71) -/

/-- The product of two `n`-bit numbers has `2 n` bits. -/
theorem U_mul_lt {n : Nat} (x y : BitVec n) : U x * U y < 2 ^ n * 2 ^ n :=
  Nat.mul_lt_mul'' x.isLt y.isLt

theorem U_bv_product (a b : Limb) : U (bv 256 (U a * U b)) = U a * U b :=
  U_bv_of_lt (U_mul_lt a b)

/-- The product of two signed limbs is well inside the range of 256 bits (R71). -/
theorem S_mul_bounds (a b : Limb) : -2 ^ 254 ≤ S a * S b ∧ S a * S b ≤ 2 ^ 254 :=
  ⟨BitVec.le_toInt_mul_toInt, BitVec.toInt_mul_toInt_le⟩

theorem S_bv_product (a b : Limb) : S (bv 256 (S a * S b)) = S a * S b := by
  obtain ⟨hge, hle⟩ := S_mul_bounds a b
  exact BitVec.toInt_ofInt_eq_self (by decide) (by omega) (by omega)

theorem exec_mulu (aLo bLo : Limb) (s : State) : exec (.mulu aLo bLo) s = .next { s with
    responses := s.responses ++ [wideResponse (bv 256 (U aLo * U bLo)) false false] } := rfl

theorem exec_muls (aLo bLo : Limb) (s : State) : exec (.muls aLo bLo) s = .next { s with
    responses := s.responses ++ [wideResponse (bv 256 (S aLo * S bLo)) false false] } := rfl

/-- Settles O1: the row of `OP = 0`, and a product that 256 bits hold. -/
theorem muluGivesExactProduct : Obligations.MuluGivesExactProduct := by
  refine ⟨fun _ h => decode_of_row .mulu h, fun s aLo bLo => ⟨_, exec_mulu aLo bLo s, ?_, ?_⟩⟩
  · rw [wideResponse_rHi, wideResponse_rLo, double_limbs, U_bv_product]
  · exact ⟨rfl, rfl, rfl⟩

/-- Settles O2: the row of `OP = 1`, and a signed product that 256 bits hold. -/
theorem mulsGivesExactSignedProduct : Obligations.MulsGivesExactSignedProduct := by
  refine ⟨fun _ h => decode_of_row .muls h, fun s aLo bLo => ⟨_, exec_muls aLo bLo s, ?_, ?_⟩⟩
  · rw [wideResponse_rHi, wideResponse_rLo, double_limbs, S_bv_product]
  · exact ⟨rfl, rfl, rfl⟩

/-! The low limb of either product is the product of the patterns as 128-bit words. -/

theorem loLimb_unsigned_product (a b : Limb) : loLimb (bv 256 (U a * U b)) = a * b := by
  rw [loLimb_bv, bv, BitVec.ofInt_mul, BitVec.ofInt_natCast, BitVec.ofInt_natCast,
    BitVec.ofNat_toNat, BitVec.ofNat_toNat, BitVec.setWidth_eq, BitVec.setWidth_eq]

theorem loLimb_signed_product (a b : Limb) : loLimb (bv 256 (S a * S b)) = a * b := by
  rw [loLimb_bv, bv, BitVec.ofInt_mul, BitVec.ofInt_toInt, BitVec.ofInt_toInt]

/-- Settles O16: both low limbs are the word product, and the products commute. -/
theorem multiplyLowLimbsAgree : Obligations.MultiplyLowLimbsAgree := by
  refine fun s aLo bLo => ⟨_, _, exec_mulu aLo bLo s, ?_, exec_muls aLo bLo s, ?_, ?_⟩
  · rw [exec_mulu, Int.mul_comm]
  · rw [exec_muls, Int.mul_comm]
  · rw [wideResponse_rLo, wideResponse_rLo, loLimb_unsigned_product, loLimb_signed_product]

/-! ### A limb by its half-limbs -/

theorem halves_append (v : Limb) : hiHalf v ++ loHalf v = v := by
  rw [hiHalf, loHalf,
    BitVec.extractLsb'_append_extractLsb'_eq_extractLsb' (start₂ := 64) (start₁ := 0) rfl]
  exact BitVec.extractLsb'_eq_self

theorem U_eq_halves (v : Limb) : U v = U (hiHalf v) * 2 ^ 64 + U (loHalf v) := by
  rw [← U_append, halves_append]

/-- The low half-limb is read unsigned, the high half-limb has the sign (R74). -/
theorem S_eq_halves (v : Limb) : S v = S (hiHalf v) * 2 ^ 64 + (U (loHalf v) : Int) := by
  calc S v = S (hiHalf v ++ loHalf v) := by rw [halves_append]
    _ = 2 ^ 64 * S (hiHalf v) + (U (loHalf v) : Int) := BitVec.toInt_append
    _ = S (hiHalf v) * 2 ^ 64 + (U (loHalf v) : Int) := by rw [Int.mul_comm]

/-- The four partial products at the offsets 128, 64 and 0 (R72, R74). -/
theorem mul_halves {R : Type*} [CommSemiring R] (ah al bh bl : R) :
    (ah * 2 ^ 64 + al) * (bh * 2 ^ 64 + bl) =
      ah * bh * 2 ^ 128 + (ah * bl + al * bh) * 2 ^ 64 + al * bl := by
  ring

/-! ### The unsigned datapath (R72, R75) -/

/-- Each partial product "fits 128 bits", with room for the carry out of column 0 (R72). -/
theorem U_mul_halves_le (x y : Half) : U x * U y ≤ (2 ^ 64 - 1) * (2 ^ 64 - 1) :=
  Nat.mul_le_mul (Nat.le_sub_one_of_lt x.isLt) (Nat.le_sub_one_of_lt y.isLt)

theorem muluColumns_col0 (a b : Limb) :
    (muluColumns a b).col0 = U (loHalf a) * U (loHalf b) := rfl

theorem muluColumns_s1 (a b : Limb) :
    (muluColumns a b).s1 = U (hiHalf a) * U (loHalf b) + U (loHalf a) * U (hiHalf b) +
      (muluColumns a b).col0 / 2 ^ 64 := rfl

theorem muluColumns_col1 (a b : Limb) :
    (muluColumns a b).col1 = (muluColumns a b).s1 % 2 ^ 128 := rfl

theorem muluColumns_c1 (a b : Limb) :
    (muluColumns a b).c1 = (muluColumns a b).s1 / 2 ^ 128 := rfl

theorem muluColumns_col2 (a b : Limb) :
    (muluColumns a b).col2 = U (hiHalf a) * U (hiHalf b) + (muluColumns a b).col1 / 2 ^ 64 +
      (muluColumns a b).c1 * 2 ^ 64 := rfl

theorem muluColumns_col0_lt (a b : Limb) : (muluColumns a b).col0 < 2 ^ 128 := by
  have hll := U_mul_halves_le (loHalf a) (loHalf b)
  rw [muluColumns_col0]
  omega

theorem muluColumns_s1_lt (a b : Limb) : (muluColumns a b).s1 < 2 ^ 129 := by
  have hhl := U_mul_halves_le (hiHalf a) (loHalf b)
  have hlh := U_mul_halves_le (loHalf a) (hiHalf b)
  have hcol0 := muluColumns_col0_lt a b
  rw [muluColumns_s1]
  omega

theorem muluColumns_c1_le (a b : Limb) : (muluColumns a b).c1 ≤ 1 := by
  have hs1 := muluColumns_s1_lt a b
  rw [muluColumns_c1]
  omega

/-- The low limb that the datapath puts together from columns 0 and 1. -/
def MuluColumns.low (c : MuluColumns) : Nat := c.col0 % 2 ^ 64 + c.col1 % 2 ^ 64 * 2 ^ 64

theorem MuluColumns.low_lt (c : MuluColumns) : c.low < 2 ^ 128 := by
  rw [MuluColumns.low]
  omega

theorem muluDatapath_eq (a b : Limb) : muluDatapath a b =
    double (bv 128 (muluColumns a b).col2) (bv 128 (muluColumns a b).low) := rfl

/-- The carries between the columns lose nothing. -/
theorem muluColumns_value (a b : Limb) :
    U a * U b = (muluColumns a b).col2 * 2 ^ 128 + (muluColumns a b).low := by
  rw [U_eq_halves a, U_eq_halves b, mul_halves, MuluColumns.low, muluColumns_col2,
    muluColumns_c1, muluColumns_col1, muluColumns_s1, muluColumns_col0]
  omega

/-- `col2` "equals `floor(a*b / 2^128)`", and the product has 256 bits. -/
theorem muluColumns_col2_lt (a b : Limb) : (muluColumns a b).col2 < 2 ^ 128 := by
  have hprod := U_mul_lt a b
  rw [muluColumns_value] at hprod
  omega

theorem U_muluDatapath (a b : Limb) : U (muluDatapath a b) = U a * U b := by
  rw [muluDatapath_eq, U_double, U_bv_of_lt (muluColumns_col2_lt a b),
    U_bv_of_lt (MuluColumns.low_lt _), muluColumns_value]

/-- Settles O45, from the value of the columns and a bound for each. -/
theorem muluDatapathMeetsContract : Obligations.MuluDatapathMeetsContract := fun a b =>
  ⟨U_muluDatapath a b, muluColumns_col0_lt a b, muluColumns_s1_lt a b, muluColumns_c1_le a b,
    muluColumns_col2_lt a b⟩

/-! ### The mixed half-limb multiply (R73) -/

/-- `U(sb) = S(sb) + 2^64` when `sb[63] = 1`, and `U(sb) = S(sb)` otherwise. -/
theorem S_eq_ite_sign (sb : Half) :
    S sb = if sb.getLsbD 63 then (U sb : Int) - 2 ^ 64 else (U sb : Int) := by
  rw [S, BitVec.toInt_eq_msb_cond, BitVec.msb_eq_getLsbD_last]
  rfl

/-- The adjustment of the raw product makes it the mixed product. -/
theorem mulSignedUnsigned_eq (sb u : Half) : mulSignedUnsigned sb u = bv 128 (S sb * U u) := by
  rw [mulSignedUnsigned, S_eq_ite_sign]
  cases sb.getLsbD 63 with
  | false => rfl
  | true =>
    rw [if_pos rfl, if_pos rfl, Int.sub_mul, Int.mul_comm (2 ^ 64)]

/-- The mixed product is inside the range of 128 signed bits, and not at its lower end. -/
theorem mixed_product_bounds (sb u : Half) :
    -2 ^ 127 < S sb * (U u : Int) ∧ S sb * (U u : Int) < 2 ^ 127 := by
  have hge : -2 ^ 63 ≤ S sb := BitVec.le_toInt sb
  have hlt : S sb < 2 ^ 63 := BitVec.toInt_lt
  have hu : U u < 2 ^ 64 := u.isLt
  have hlow := Int.mul_le_mul_of_nonneg_right hge (Int.natCast_nonneg (U u))
  have hhigh := Int.mul_le_mul_of_nonneg_right hlt.le (Int.natCast_nonneg (U u))
  omega

theorem S_mulSignedUnsigned (sb u : Half) : S (mulSignedUnsigned sb u) = S sb * (U u : Int) := by
  obtain ⟨hlow, hhigh⟩ := mixed_product_bounds sb u
  rw [mulSignedUnsigned_eq]
  exact BitVec.toInt_ofInt_eq_self (by decide) (by omega) (by omega)

/-- Settles O46: the mixed product in 128 bits that hold it. -/
theorem mixedHalfLimbMultiplyIsExact : Obligations.MixedHalfLimbMultiplyIsExact :=
  S_mulSignedUnsigned

/-! ### The signed datapath (R74) -/

theorem mulsColumns_col0 (a b : Limb) :
    (mulsColumns a b).col0 = U (loHalf a) * U (loHalf b) := rfl

theorem mulsColumns_s1 (a b : Limb) :
    (mulsColumns a b).s1 = S (hiHalf a) * U (loHalf b) + U (loHalf a) * S (hiHalf b) +
      (mulsColumns a b).col0 / 2 ^ 64 := by
  rw [mulsColumns, S_mulSignedUnsigned, S_mulSignedUnsigned, floorShiftInt_eq_ediv]
  ring

theorem mulsColumns_col2 (a b : Limb) :
    (mulsColumns a b).col2 = S (hiHalf a) * S (hiHalf b) + (mulsColumns a b).s1 / 2 ^ 64 := by
  rw [← floorShiftInt_eq_ediv]
  rfl

/-- Two mixed products and the carry out of column 0 (R74). -/
theorem mulsColumns_s1_bounds (a b : Limb) :
    -2 ^ 128 < (mulsColumns a b).s1 ∧ (mulsColumns a b).s1 < 2 ^ 129 := by
  obtain ⟨hhl, hhl'⟩ := mixed_product_bounds (hiHalf a) (loHalf b)
  obtain ⟨hlh, hlh'⟩ := mixed_product_bounds (hiHalf b) (loHalf a)
  have hll := U_mul_halves_le (loHalf a) (loHalf b)
  rw [mulsColumns_s1, mulsColumns_col0, Int.mul_comm (U (loHalf a)) (S (hiHalf b))]
  omega

/-- The low limb that the datapath puts together from `col0` and `s1`. -/
def MulsColumns.low (c : MulsColumns) : Int := c.col0 % 2 ^ 64 + c.s1 % 2 ^ 64 * 2 ^ 64

theorem MulsColumns.low_bounds (c : MulsColumns) : 0 ≤ c.low ∧ c.low < 2 ^ 128 := by
  rw [MulsColumns.low]
  omega

theorem mulsDatapath_eq (a b : Limb) : mulsDatapath a b =
    double (bv 128 (mulsColumns a b).col2) (bv 128 (mulsColumns a b).low) := rfl

/-- The floors between the columns lose nothing. -/
theorem mulsColumns_value (a b : Limb) :
    S a * S b = (mulsColumns a b).col2 * 2 ^ 128 + (mulsColumns a b).low := by
  rw [S_eq_halves a, S_eq_halves b, mul_halves, MulsColumns.low, mulsColumns_col2,
    mulsColumns_s1, mulsColumns_col0]
  omega

/-- `col2` "equals `floor(a*b / 2^128)`", and the product fits 256 signed bits. -/
theorem mulsColumns_col2_bounds (a b : Limb) :
    -2 ^ 127 ≤ (mulsColumns a b).col2 ∧ (mulsColumns a b).col2 < 2 ^ 127 := by
  obtain ⟨hge, hle⟩ := S_mul_bounds a b
  obtain ⟨hlow, hlow'⟩ := (mulsColumns a b).low_bounds
  rw [mulsColumns_value] at hge hle
  omega

theorem S_mulsDatapath (a b : Limb) : S (mulsDatapath a b) = S a * S b := by
  obtain ⟨hge, hlt⟩ := mulsColumns_col2_bounds a b
  obtain ⟨hlow, hlow'⟩ := (mulsColumns a b).low_bounds
  have hhi : S (bv 128 (mulsColumns a b).col2) = (mulsColumns a b).col2 :=
    BitVec.toInt_ofInt_eq_self (by decide) hge hlt
  have hlo : (U (bv 128 (mulsColumns a b).low) : Int) = (mulsColumns a b).low := by
    rw [U_bv, Int.emod_eq_of_lt hlow hlow']
  rw [mulsDatapath_eq, S_double, hhi, hlo, mulsColumns_value]

/-- Settles O47, from the value of the columns and a bound for each. -/
theorem mulsDatapathMeetsContract : Obligations.MulsDatapathMeetsContract := by
  intro a b
  obtain ⟨hs1, hs1'⟩ := mulsColumns_s1_bounds a b
  obtain ⟨hcol2, hcol2'⟩ := mulsColumns_col2_bounds a b
  exact ⟨S_mulsDatapath a b, hs1, hs1', hcol2, hcol2'⟩

end Sys2Proof.Machine

/-! PROOFS. Narrowing divide: the contract (`41_narrowing_divide.md` R80, R81). -/

namespace Sys2Proof.Machine

/-! ### The preconditions of the divides as arithmetic (R121) -/

theorem divisorNotZero_iff (bLo : Limb) : divisorNotZero bLo = true ↔ U bLo ≠ 0 :=
  decide_eq_true_iff

theorem quotientFitsU_iff (aHi bLo : Limb) : quotientFitsU aHi bLo = true ↔ U aHi < U bLo :=
  decide_eq_true_iff

theorem quotientFitsS_iff (aHi aLo bLo : Limb) : quotientFitsS aHi aLo bLo = true ↔
    -2 ^ 127 ≤ (S (double aHi aLo)).tdiv (S bLo) ∧
      (S (double aHi aLo)).tdiv (S bLo) ≤ 2 ^ 127 - 1 :=
  decide_eq_true_iff

/-- P-DIVZERO of DIVS, which reads the divisor signed. -/
theorem U_ne_zero_of_S_ne_zero {n : Nat} {v : BitVec n} (h : S v ≠ 0) : U v ≠ 0 := fun hu =>
  h (by rw [BitVec.eq_of_toNat_eq (y := 0#n) hu, S, BitVec.toInt_zero])

/-- The low limb of the dividend never decides whether the quotient fits (R80). -/
theorem U_double_lt_iff (hi lo d : Limb) : U (double hi lo) < 2 ^ 128 * U d ↔ U hi < U d := by
  have hlo : U lo < 2 ^ 128 := lo.isLt
  rw [U_double]
  omega

/-- Settles O14: a quotient below 2^128 is a dividend below the divisor times 2^128. -/
theorem quotientFitsIffHighLimbLess : Obligations.QuotientFitsIffHighLimbLess := by
  intro aHi aLo bLo hd
  calc quotientFitsU aHi bLo = true
    _ ↔ U aHi < U bLo := quotientFitsU_iff aHi bLo
    _ ↔ U (double aHi aLo) < 2 ^ 128 * U bLo := (U_double_lt_iff aHi aLo bLo).symm
    _ ↔ U (double aHi aLo) / U bLo < 2 ^ 128 :=
      (Nat.div_lt_iff_lt_mul (Nat.pos_of_ne_zero hd)).symm
    _ ↔ U (double aHi aLo) / U bLo ≤ 2 ^ 128 - 1 := Nat.lt_iff_le_pred (by decide)

/-! ### DIVU (R80) -/

theorem exec_divu (aHi aLo bLo : Limb) (s : State) (hd : U bLo ≠ 0) (hq : U aHi < U bLo) :
    exec (.divu aHi aLo bLo) s = .next { s with responses := s.responses ++
      [limbResponse (bv 128 (U (double aHi aLo) % U bLo : Nat))
        (bv 128 (U (double aHi aLo) / U bLo : Nat)) false] } := by
  have hp : (divisorNotZero bLo && quotientFitsU aHi bLo) = true :=
    Bool.and_eq_true_iff.mpr ⟨(divisorNotZero_iff bLo).mpr hd, (quotientFitsU_iff aHi bLo).mpr hq⟩
  rw [Nat.mod_eq_sub_div_mul]
  exact answerWhen_of_true hp _ (.divu aHi aLo bLo) s

/-- Settles O3: the row of `OP = 2`, and a quotient and a remainder that a limb holds. -/
theorem divuGivesQuotientAndRemainder : Obligations.DivuGivesQuotientAndRemainder := by
  refine ⟨fun _ h => decode_of_row .divu h, fun s aHi aLo bLo hd hq =>
    ⟨_, exec_divu aHi aLo bLo s hd hq, ?_⟩⟩
  have hpos : 0 < U bLo := Nat.pos_of_ne_zero hd
  have hrem : U (double aHi aLo) % U bLo < U bLo := Nat.mod_lt _ hpos
  have hquot : U (double aHi aLo) / U bLo < 2 ^ 128 :=
    (Nat.div_lt_iff_lt_mul hpos).mpr ((U_double_lt_iff aHi aLo bLo).mpr hq)
  rw [limbResponse_rLo, limbResponse_rHi, U_bv_of_lt hquot, U_bv_of_lt (hrem.trans bLo.isLt)]
  exact ⟨(Nat.div_add_mod' _ _).symm, hrem, rfl, rfl, rfl⟩

/-! ### The signs of a division that rounds toward zero (R81) -/

theorem tdiv_zero_or_sign (n d : Int) :
    n.tdiv d = 0 ∨ (n.tdiv d < 0 ↔ ¬(n < 0 ↔ d < 0)) := by
  rcases lt_or_ge n 0 with hn | hn <;> rcases lt_or_ge d 0 with hd | hd
  · have hq : 0 ≤ n.tdiv d := Int.tdiv_nonneg_of_nonpos_of_nonpos hn.le hd.le
    omega
  · have hq : 0 ≤ (-n).tdiv d := Int.tdiv_nonneg (Int.neg_nonneg_of_nonpos hn.le) hd
    rw [Int.neg_tdiv] at hq
    omega
  · have hq : n.tdiv d ≤ 0 := Int.tdiv_nonpos_of_nonneg_of_nonpos hn hd.le
    omega
  · have hq : 0 ≤ n.tdiv d := Int.tdiv_nonneg hn hd
    omega

theorem tmod_zero_or_sign (n d : Int) : n.tmod d = 0 ∨ (n.tmod d < 0 ↔ n < 0) := by
  have hsign := Int.sign_tmod n d
  by_cases hdvd : d ∣ n
  · exact .inl (Int.tmod_eq_zero_of_dvd hdvd)
  · rw [if_neg hdvd] at hsign
    rw [← Int.sign_eq_neg_one_iff_neg, hsign, Int.sign_eq_neg_one_iff_neg]
    exact .inr Iff.rfl

theorem abs_tmod_lt (n : Int) {d : Int} (hd : d ≠ 0) : |n.tmod d| < |d| := by
  rw [Int.abs_eq_natAbs, Int.abs_eq_natAbs, Int.natAbs_tmod, Int.ofNat_lt]
  exact Nat.mod_lt _ (Int.natAbs_pos.mpr hd)

/-! ### DIVS (R81) -/

/-- A limb holds an integer from -2^127 to 2^127 - 1. -/
theorem S_bv_limb {i : Int} (hge : -2 ^ 127 ≤ i) (hle : i ≤ 2 ^ 127 - 1) : S (bv 128 i) = i :=
  BitVec.toInt_ofInt_eq_self (by decide) hge (Int.lt_of_le_sub_one hle)

/-- The remainder is smaller than the divisor, which is at most 2^127 in size. -/
theorem S_bv_tmod (n : Int) (d : Limb) (hd : S d ≠ 0) :
    S (bv 128 (n.tmod (S d))) = n.tmod (S d) := by
  have hge : -2 ^ 127 ≤ S d := BitVec.le_toInt d
  have hlt : S d < 2 ^ 127 := BitVec.toInt_lt
  obtain ⟨hlow, hhigh⟩ := abs_lt.mp ((abs_tmod_lt n hd).trans_le (abs_le.mpr ⟨hge, hlt.le⟩))
  exact S_bv_limb hlow.le (Int.le_sub_one_of_lt hhigh)

theorem exec_divs (aHi aLo bLo : Limb) (s : State) (hd : S bLo ≠ 0)
    (hge : -2 ^ 127 ≤ (S (double aHi aLo)).tdiv (S bLo))
    (hle : (S (double aHi aLo)).tdiv (S bLo) ≤ 2 ^ 127 - 1) :
    exec (.divs aHi aLo bLo) s = .next { s with responses := s.responses ++
      [limbResponse (bv 128 ((S (double aHi aLo)).tmod (S bLo)))
        (bv 128 ((S (double aHi aLo)).tdiv (S bLo))) false] } := by
  have hp : (divisorNotZero bLo && quotientFitsS aHi aLo bLo) = true :=
    Bool.and_eq_true_iff.mpr ⟨(divisorNotZero_iff bLo).mpr (U_ne_zero_of_S_ne_zero hd),
      (quotientFitsS_iff aHi aLo bLo).mpr ⟨hge, hle⟩⟩
  rw [Int.tmod_def, Int.mul_comm]
  exact answerWhen_of_true hp _ (.divs aHi aLo bLo) s

/-- Settles O4: the row of `OP = 3`, and the laws of truncated division for a quotient and a
remainder that a limb holds. -/
theorem divsRoundsTowardZero : Obligations.DivsRoundsTowardZero := by
  refine ⟨fun _ h => decode_of_row .divs h, fun s aHi aLo bLo hd hge hle =>
    ⟨_, exec_divs aHi aLo bLo s hd hge hle, ?_⟩⟩
  have hsign := tdiv_zero_or_sign (S (double aHi aLo)) (S bLo)
  rw [limbResponse_rLo, limbResponse_rHi, S_bv_limb hge hle, S_bv_tmod _ _ hd]
  refine ⟨rfl, (Int.tdiv_mul_add_tmod _ _).symm, abs_tmod_lt _ hd, tmod_zero_or_sign _ _, ?_,
    rfl, rfl, rfl⟩
  intro hq
  omega

end Sys2Proof.Machine

/-! PROOFS. The unsigned divider (`41_narrowing_divide.md` R82 to R85). -/

namespace Sys2Proof.Machine

/-! ### The half-limb step (R83) -/

theorem correct_of_lt {dn m : Nat} {cq : Nat × Nat × Nat} (h : cq.1 < m) :
    correct dn m cq = (cq.1 + dn, cq.2.1 - 1, cq.2.2 + 1) := if_pos h

theorem correct_of_le {dn m : Nat} {cq : Nat × Nat × Nat} (h : m ≤ cq.1) :
    correct dn m cq = cq := if_neg (Nat.not_lt.mpr h)

/-- What holds of candidate, quotient and number of corrections while a step divides `x`, when
`left` corrections may still be needed: "lowering `q` by one raises the remainder by `dn`". -/
structure Correcting (x dn m estimate left : Nat) (cq : Nat × Nat × Nat) : Prop where
  value : cq.1 + cq.2.1 * dn = x + m
  overshoot : estimate = cq.2.1 + cq.2.2
  candidate_lt : cq.1 < m + dn
  le_candidate : m ≤ cq.1 + left * dn
  corrections_le : cq.2.2 + left ≤ 2

/-- A correction is made only where the quotient is not 0, for `x` is not negative. -/
theorem Correcting.keep {x dn m estimate left : Nat} {cq : Nat × Nat × Nat}
    (h : Correcting x dn m estimate (left + 1) cq) :
    Correcting x dn m estimate left (correct dn m cq) := by
  obtain ⟨c, q, k⟩ := cq
  obtain ⟨hvalue, hover, hlt, hle, hk⟩ := h
  dsimp only at hvalue hover hlt hle hk
  rcases Nat.lt_or_ge c m with hc | hc
  · rw [correct_of_lt hc]
    obtain ⟨q, rfl⟩ : ∃ p, q = p + 1 := Nat.exists_eq_succ_of_ne_zero (by rintro rfl; omega)
    change Correcting x dn m estimate left (c + dn, q, k + 1)
    rw [Nat.succ_mul] at hvalue hle
    constructor <;> dsimp only <;> omega
  · rw [correct_of_le hc]
    constructor <;> dsimp only <;> omega

/-- With no correction left, the candidate less `m` is the remainder. -/
theorem Correcting.divides {x dn m estimate : Nat} {cq : Nat × Nat × Nat}
    (h : Correcting x dn m estimate 0 cq) :
    x = cq.2.1 * dn + (cq.1 - m) ∧ cq.1 - m < dn := by
  obtain ⟨hvalue, -, hlt, hle, -⟩ := h
  omega

/-- The estimate of a normalised divisor is at most two above the quotient (R83). -/
theorem estimate_le {r dn : Nat} (hdn : 2 ^ 127 ≤ dn) (hr : r < dn) :
    r / (dn / 2 ^ 64) ≤ 2 ^ 64 + 1 := by
  have hlt : r < (2 ^ 64 + 2) * (dn / 2 ^ 64) := by omega
  have hq := (Nat.div_lt_iff_lt_mul (by omega)).mpr hlt
  omega

theorem divHalf_refuses (r next : Nat) {dn : Nat} (h : dn < 2 ^ 64) :
    divHalf r dn next = .error .divisorNotNormalised :=
  if_pos (Nat.div_eq_of_lt h)

/-- The state of the step before its first correction. -/
def firstCandidate (r dn next : Nat) : Nat × Nat × Nat :=
  (r % (dn / 2 ^ 64) * 2 ^ 64 + next, r / (dn / 2 ^ 64), 0)

/-- What the estimate takes off the candidate. -/
def estimateLow (r dn : Nat) : Nat := r / (dn / 2 ^ 64) * (dn % 2 ^ 64)

/-- The state of the step after its two corrections. -/
def lastCandidate (r dn next : Nat) : Nat × Nat × Nat :=
  correct dn (estimateLow r dn) (correct dn (estimateLow r dn) (firstCandidate r dn next))

theorem divHalf_eq (r next : Nat) {dn : Nat} (h : 2 ^ 64 ≤ dn) :
    divHalf r dn next = .ok ⟨(lastCandidate r dn next).1 - estimateLow r dn,
      (lastCandidate r dn next).2.1, r / (dn / 2 ^ 64), (lastCandidate r dn next).2.2⟩ :=
  if_neg (by omega)

theorem firstCandidate_correcting {r dn next : Nat} (hlow : 2 ^ 127 ≤ dn) (hhigh : dn < 2 ^ 128)
    (hr : r < dn) (hnext : next < 2 ^ 64) :
    Correcting (r * 2 ^ 64 + next) dn (estimateLow r dn) (r / (dn / 2 ^ 64)) 2
      (firstCandidate r dn next) := by
  have hest := estimate_le hlow hr
  have hrem : r % (dn / 2 ^ 64) < dn / 2 ^ 64 := Nat.mod_lt _ (by omega)
  have hm : estimateLow r dn ≤ (2 ^ 64 + 1) * (2 ^ 64 - 1) :=
    Nat.mul_le_mul hest (by omega)
  refine ⟨?_, rfl, ?_, ?_, Nat.le_refl 2⟩ <;> dsimp only [firstCandidate]
  · calc r % (dn / 2 ^ 64) * 2 ^ 64 + next + r / (dn / 2 ^ 64) * dn
      _ = r % (dn / 2 ^ 64) * 2 ^ 64 + next
          + r / (dn / 2 ^ 64) * (dn / 2 ^ 64 * 2 ^ 64 + dn % 2 ^ 64) := by
            rw [Nat.div_add_mod' dn]
      _ = (r / (dn / 2 ^ 64) * (dn / 2 ^ 64) + r % (dn / 2 ^ 64)) * 2 ^ 64 + next
          + estimateLow r dn := by rw [estimateLow]; ring
      _ = r * 2 ^ 64 + next + estimateLow r dn := by rw [Nat.div_add_mod']
  · omega
  · omega

theorem divHalf_corrects {r dn next : Nat} (hlow : 2 ^ 127 ≤ dn) (hhigh : dn < 2 ^ 128)
    (hr : r < dn) (hnext : next < 2 ^ 64) : ∃ cq : Nat × Nat × Nat,
      Correcting (r * 2 ^ 64 + next) dn (estimateLow r dn) (r / (dn / 2 ^ 64)) 0 cq ∧
      divHalf r dn next =
        .ok ⟨cq.1 - estimateLow r dn, cq.2.1, r / (dn / 2 ^ 64), cq.2.2⟩ :=
  ⟨_, (firstCandidate_correcting hlow hhigh hr hnext).keep.keep,
    divHalf_eq r next (Nat.le_trans (by decide) hlow)⟩

/-- The quotient of a running remainder and one more half-limb is a half-limb. -/
theorem emitted_lt {r dn next q rest : Nat} (hr : r < dn) (hnext : next < 2 ^ 64)
    (h : r * 2 ^ 64 + next = q * dn + rest) : q < 2 ^ 64 := by
  have hprod : q * dn < 2 ^ 64 * dn := by omega
  exact Nat.lt_of_mul_lt_mul_right hprod

/-- Settles O48: after the two corrections the candidate is in the range of the remainder. -/
theorem halfLimbStepDivides : Obligations.HalfLimbStepDivides := by
  intro r dn next hlow hhigh hr hnext
  obtain ⟨cq, hlast, hok⟩ := divHalf_corrects hlow hhigh hr hnext
  obtain ⟨hdiv, hrem⟩ := hlast.divides
  exact ⟨_, hok, hdiv, hrem, emitted_lt hr hnext hdiv, estimate_le hlow hr, hlast.overshoot,
    hlast.corrections_le⟩

/-! ### Normalisation (R82) -/

theorem normalise_dn (n : Double) (d : Limb) : (normalise n d).dn = U d * 2 ^ (normalise n d).z :=
  rfl

theorem normalise_nn (n : Double) (d : Limb) : (normalise n d).nn = U n * 2 ^ (normalise n d).z :=
  rfl

theorem normalise_dn_bounds (n : Double) {d : Limb} (hd : U d ≠ 0) :
    2 ^ 127 ≤ (normalise n d).dn ∧ (normalise n d).dn < 2 ^ 128 := by
  have hlog : (U d).log2 < 128 := (Nat.log2_lt hd).mpr d.isLt
  have hz : (normalise n d).z = 127 - (U d).log2 := if_neg hd
  have hpow : 2 ^ (U d).log2 * 2 ^ (normalise n d).z = 2 ^ 127 := by
    rw [← Nat.pow_add, hz, Nat.add_sub_cancel' (by omega)]
  have hpos : 0 < 2 ^ (normalise n d).z := Nat.two_pow_pos _
  have hle := Nat.mul_le_mul_right (2 ^ (normalise n d).z) (Nat.log2_self_le hd)
  have hlt := Nat.mul_lt_mul_of_pos_right (Nat.lt_log2_self (n := U d)) hpos
  rw [Nat.pow_succ, Nat.mul_right_comm, hpow] at hlt
  rw [hpow] at hle
  rw [normalise_dn]
  exact ⟨hle, hlt⟩

/-- "The shift by `z` is the same on both", so the quotient is that of the operands. -/
theorem normalise_quotient (n : Double) (d : Limb) :
    (normalise n d).nn / (normalise n d).dn = U n / U d := by
  rw [normalise_nn, normalise_dn, Nat.mul_div_mul_right _ _ (Nat.two_pow_pos _)]

/-- De-normalising the remainder is exact. -/
theorem normalise_remainder (n : Double) (d : Limb) :
    (normalise n d).nn % (normalise n d).dn / 2 ^ (normalise n d).z = U n % U d := by
  rw [normalise_nn, normalise_dn, Nat.mul_mod_mul_right, Nat.mul_div_cancel _ (Nat.two_pow_pos _)]

/-! ### The four steps (R84) -/

/-- The half-limbs from `k` up are those above `k`, and half-limb `k`. -/
theorem div_two_pow_eq (nn k : Nat) : nn / 2 ^ (64 * k) =
    nn / 2 ^ (64 * (k + 1)) * 2 ^ 64 + halfLimbOf nn k := by
  rw [halfLimbOf, Nat.mul_succ, Nat.pow_add, ← Nat.div_div_eq_div_mul, Nat.div_add_mod']

theorem longDivision_value (nn k dn q r : Nat)
    (h : nn / 2 ^ (64 * (k + 1)) % dn * 2 ^ 64 + halfLimbOf nn k = q * dn + r) :
    r + dn * (q + 2 ^ 64 * (nn / 2 ^ (64 * (k + 1)) / dn)) = nn / 2 ^ (64 * k) := by
  calc r + dn * (q + 2 ^ 64 * (nn / 2 ^ (64 * (k + 1)) / dn))
    _ = nn / 2 ^ (64 * (k + 1)) / dn * dn * 2 ^ 64 + (q * dn + r) := by ring
    _ = (nn / 2 ^ (64 * (k + 1)) / dn * dn + nn / 2 ^ (64 * (k + 1)) % dn) * 2 ^ 64
        + halfLimbOf nn k := by rw [← h]; ring
    _ = nn / 2 ^ (64 * k) := by rw [Nat.div_add_mod', ← div_two_pow_eq]

/-- A half-limb step of long division: with the remainder of the half-limbs above `k` it takes in
half-limb `k` of the dividend and emits half-limb `k` of the quotient. -/
theorem divHalf_longDivision (nn k : Nat) {dn : Nat} (hlow : 2 ^ 127 ≤ dn) (hhigh : dn < 2 ^ 128) :
    ∃ h : HalfStep, divHalf (nn / 2 ^ (64 * (k + 1)) % dn) dn (halfLimbOf nn k) = .ok h ∧
      h.q = halfLimbOf (nn / dn) k ∧ h.r = nn / 2 ^ (64 * k) % dn := by
  have ha : halfLimbOf nn k < 2 ^ 64 := Nat.mod_lt _ (by decide)
  have hr : nn / 2 ^ (64 * (k + 1)) % dn < dn := Nat.mod_lt _ (by omega)
  obtain ⟨h, hok, hdiv, hrem, hq, -⟩ := halfLimbStepDivides _ dn _ hlow hhigh hr ha
  obtain ⟨hquot, hrest⟩ := (Nat.div_mod_unique (by omega)).mpr
    ⟨longDivision_value nn k dn h.q h.r hdiv, hrem⟩
  refine ⟨h, hok, ?_, hrest.symm⟩
  rw [halfLimbOf, Nat.div_div_eq_div_mul, Nat.mul_comm dn, ← Nat.div_div_eq_div_mul, hquot,
    Nat.add_mul_mod_self_left, Nat.mod_eq_of_lt hq]

theorem divuDatapath_of_steps {n : Double} {d : Limb} {h3 h2 h1 h0 : HalfStep}
    (e3 : divHalf 0 (normalise n d).dn (halfLimbOf (normalise n d).nn 3) = .ok h3)
    (e2 : divHalf h3.r (normalise n d).dn (halfLimbOf (normalise n d).nn 2) = .ok h2)
    (e1 : divHalf h2.r (normalise n d).dn (halfLimbOf (normalise n d).nn 1) = .ok h1)
    (e0 : divHalf h1.r (normalise n d).dn (halfLimbOf (normalise n d).nn 0) = .ok h0) :
    divuDatapath n d = .ok ⟨h3.q, h2.q, h1.q, h0.q, h1.q * 2 ^ 64 + h0.q,
      h0.r / 2 ^ (normalise n d).z⟩ := by
  simp only [divuDatapath, e3, e2, e1, e0]

/-- Under P-QFIT-U "no bit is shifted out" (R82). -/
theorem normalise_nn_lt {n : Double} {d : Limb} (h : U n < 2 ^ 128 * U d) :
    (normalise n d).nn < 2 ^ 256 := by
  obtain ⟨-, hdn⟩ := normalise_dn_bounds n (d := d) (by omega)
  have hlt := Nat.mul_lt_mul_of_pos_right h (Nat.two_pow_pos (normalise n d).z)
  rw [← normalise_nn, Nat.mul_assoc, ← normalise_dn] at hlt
  omega

theorem halfLimbOf_of_lt {v : Nat} (h : v < 2 ^ 128) :
    halfLimbOf v 3 = 0 ∧ halfLimbOf v 2 = 0 ∧ halfLimbOf v 1 * 2 ^ 64 + halfLimbOf v 0 = v := by
  simp only [halfLimbOf]
  omega

/-- Under P-QFIT-U the divider is long division by half-limbs (R84). -/
theorem divuDatapath_of_fits {n : Double} {d : Limb} (h : U n < 2 ^ 128 * U d) :
    ∃ x : DivResult, divuDatapath n d = .ok x ∧ x.q3 = 0 ∧ x.q2 = 0 ∧
      x.quotient = U n / U d ∧ x.remainder = U n % U d := by
  have hd : U d ≠ 0 := by omega
  obtain ⟨hlow, hhigh⟩ := normalise_dn_bounds n hd
  have hstart : (normalise n d).nn / 2 ^ (64 * (3 + 1)) % (normalise n d).dn = 0 := by
    rw [Nat.div_eq_of_lt (normalise_nn_lt h), Nat.zero_mod]
  obtain ⟨h3, e3, q3, r3⟩ := divHalf_longDivision (normalise n d).nn 3 hlow hhigh
  obtain ⟨h2, e2, q2, r2⟩ := divHalf_longDivision (normalise n d).nn 2 hlow hhigh
  obtain ⟨h1, e1, q1, r1⟩ := divHalf_longDivision (normalise n d).nn 1 hlow hhigh
  obtain ⟨h0, e0, q0, r0⟩ := divHalf_longDivision (normalise n d).nn 0 hlow hhigh
  rw [hstart] at e3
  rw [← r3] at e2
  rw [← r2] at e1
  rw [← r1] at e0
  rw [normalise_quotient] at q3 q2 q1 q0
  have hquot : U n / U d < 2 ^ 128 := (Nat.div_lt_iff_lt_mul (Nat.pos_of_ne_zero hd)).mpr h
  obtain ⟨hq3, hq2, hq⟩ := halfLimbOf_of_lt hquot
  refine ⟨_, divuDatapath_of_steps e3 e2 e1 e0, q3.trans hq3, q2.trans hq2, ?_, ?_⟩
  · dsimp only
    rw [q1, q0, hq]
  · dsimp only
    rw [r0, Nat.mul_zero, Nat.pow_zero, Nat.div_one, normalise_remainder]

/-- Settles O49: P-QFIT-U is the bound on the dividend under which the divider is long division. -/
theorem divuDatapathMeetsContract : Obligations.DivuDatapathMeetsContract := fun aHi aLo bLo h =>
  divuDatapath_of_fits ((U_double_lt_iff aHi aLo bLo).mpr h)

/-! ### Why normalisation comes first (R85) -/

theorem divHalf_answers (r next : Nat) {dn : Nat} (h : 2 ^ 64 ≤ dn) :
    ∃ x : HalfStep, divHalf r dn next = .ok x :=
  ⟨_, divHalf_eq r next h⟩

theorem divuDatapath_zero (n : Double) : divuDatapath n 0#128 = .error .divisorNotNormalised := by
  have hdn : (normalise n 0#128).dn < 2 ^ 64 := by
    rw [normalise_dn, U, BitVec.toNat_zero, Nat.zero_mul]
    decide
  simp only [divuDatapath, divHalf_refuses _ _ hdn]

theorem divuDatapath_answers (n : Double) {d : Limb} (hd : U d ≠ 0) :
    ∃ x : DivResult, divuDatapath n d = .ok x := by
  obtain ⟨hlow, -⟩ := normalise_dn_bounds n hd
  have hdn : 2 ^ 64 ≤ (normalise n d).dn := Nat.le_trans (by decide) hlow
  obtain ⟨h3, e3⟩ := divHalf_answers 0 (halfLimbOf (normalise n d).nn 3) hdn
  obtain ⟨h2, e2⟩ := divHalf_answers h3.r (halfLimbOf (normalise n d).nn 2) hdn
  obtain ⟨h1, e1⟩ := divHalf_answers h2.r (halfLimbOf (normalise n d).nn 1) hdn
  obtain ⟨h0, e0⟩ := divHalf_answers h1.r (halfLimbOf (normalise n d).nn 0) hdn
  exact ⟨_, divuDatapath_of_steps e3 e2 e1 e0⟩

/-- Settles O51: only a divisor of 0 is still without a high half-limb when it is normalised. -/
theorem zeroHighHalfLimbIsRefused : Obligations.ZeroHighHalfLimbIsRefused :=
  ⟨fun r _ next => divHalf_refuses r next, divuDatapath_zero, fun n _ => divuDatapath_answers n⟩

end Sys2Proof.Machine

/-! PROOFS. The signed divider (`41_narrowing_divide.md` R86). -/

namespace Sys2Proof.Machine

/-! ### Signs and magnitudes -/

theorem getLsbD_sign {n : Nat} (v : BitVec n) : v.getLsbD (n - 1) = decide (S v < 0) := by
  rw [← BitVec.msb_eq_getLsbD_last, BitVec.msb_eq_toInt]

/-- The wrapping negate, "bitwise-complement-and-add-one", is the word's own. -/
theorem bv_two_pow_sub {n : Nat} (v : BitVec n) : bv n (2 ^ n - (U v : Int)) = -v := by
  apply BitVec.eq_of_toNat_eq
  have hneg := U_bv n (2 ^ n - (U v : Int))
  rw [← Int.natCast_inj, hneg, BitVec.toNat_neg, Int.natCast_emod, Nat.cast_sub v.isLt.le]
  exact congrArg (· % _) (congrArg (· - _) (Nat.cast_pow 2 n))

/-- The magnitude of the most negative word fits, read unsigned (R86). -/
theorem U_abs {n : Nat} (v : BitVec n) : U v.abs = (S v).natAbs := by
  have hlt := v.isLt
  rw [U, BitVec.toNat_abs, S, BitVec.toInt_eq_msb_cond]
  cases v.msb with
  | false => exact (Int.natAbs_natCast _).symm
  | true =>
    rw [if_pos rfl, if_pos rfl]
    omega

theorem U_magnitudeDouble (v : Double) : U (magnitudeDouble v) = (S v).natAbs := by
  rw [magnitudeDouble, bv_two_pow_sub v, ← U_abs, BitVec.abs_eq, BitVec.msb_eq_getLsbD_last]

theorem U_magnitudeLimb (v : Limb) : U (magnitudeLimb v) = (S v).natAbs := by
  rw [magnitudeLimb, bv_two_pow_sub v, ← U_abs, BitVec.abs_eq, BitVec.msb_eq_getLsbD_last]

/-- Restoring the sign of an integer to its magnitude gives its word, -2^127 included (R86). -/
theorem negateLimbIf_natAbs {i : Int} {c : Bool} (h : i = 0 ∨ (i < 0 ↔ c = true)) :
    negateLimbIf c (bv 128 i.natAbs) = bv 128 i := by
  rw [negateLimbIf, bv_two_pow_sub]
  cases c with
  | false =>
    have hi : 0 ≤ i := h.elim (·.ge) fun hsign => not_lt.mp (mt hsign.mp Bool.false_ne_true)
    rw [if_neg Bool.false_ne_true, Int.natAbs_of_nonneg hi]
  | true =>
    have hi : i ≤ 0 := h.elim (·.le) fun hsign => (hsign.mpr rfl).le
    rw [if_pos rfl, bv, bv, ← BitVec.ofInt_neg, Int.ofNat_natAbs_of_nonpos hi, Int.neg_neg]

/-! ### The divider on the magnitudes -/

/-- P-QFIT-S gives P-QFIT-U for the magnitudes. -/
theorem magnitudes_fit {n d : Int} (hd : d ≠ 0) (hge : -2 ^ 127 ≤ n.tdiv d)
    (hle : n.tdiv d ≤ 2 ^ 127 - 1) : n.natAbs < 2 ^ 128 * d.natAbs := by
  have hquot : n.natAbs / d.natAbs = (n.tdiv d).natAbs := (Int.natAbs_tdiv n d).symm
  exact (Nat.div_lt_iff_lt_mul (Int.natAbs_pos.mpr hd)).mp (by omega)

theorem divsDatapath_of_magnitudes {n : Double} {d : Limb} {x : DivResult}
    (h : divuDatapath (magnitudeDouble n) (magnitudeLimb d) = .ok x) :
    divsDatapath n d = .ok (negateLimbIf (n.getLsbD 255 != d.getLsbD 127) (bv 128 x.quotient),
      negateLimbIf (n.getLsbD 255) (bv 128 x.remainder)) := by
  simp only [divsDatapath, h]

theorem divsDatapath_of_fits {n : Double} {d : Limb} (hd : S d ≠ 0)
    (hge : -2 ^ 127 ≤ (S n).tdiv (S d)) (hle : (S n).tdiv (S d) ≤ 2 ^ 127 - 1) :
    divsDatapath n d = .ok (bv 128 ((S n).tdiv (S d)), bv 128 ((S n).tmod (S d))) := by
  have hfit : U (magnitudeDouble n) < 2 ^ 128 * U (magnitudeLimb d) := by
    rw [U_magnitudeDouble, U_magnitudeLimb]
    exact magnitudes_fit hd hge hle
  obtain ⟨x, hok, -, -, hquot, hrem⟩ := divuDatapath_of_fits hfit
  rw [U_magnitudeDouble, U_magnitudeLimb] at hquot hrem
  replace hquot : x.quotient = ((S n).tdiv (S d)).natAbs := hquot.trans (Int.natAbs_tdiv ..).symm
  replace hrem : x.remainder = ((S n).tmod (S d)).natAbs := hrem.trans (Int.natAbs_tmod ..).symm
  have hn : n.getLsbD 255 = decide (S n < 0) := getLsbD_sign n
  have hd' : d.getLsbD 127 = decide (S d < 0) := getLsbD_sign d
  rw [divsDatapath_of_magnitudes hok, hquot, hrem, hn, hd']
  congr 2
  · exact negateLimbIf_natAbs (by simpa using tdiv_zero_or_sign (S n) (S d))
  · exact negateLimbIf_natAbs (by simpa using tmod_zero_or_sign (S n) (S d))

/-- Settles O50: the words the divider gives hold the quotient and the remainder. -/
theorem divsDatapathMeetsContract : Obligations.DivsDatapathMeetsContract :=
  fun _ _ bLo hd hge hle =>
    ⟨_, _, divsDatapath_of_fits hd hge hle, S_bv_limb hge hle, S_bv_tmod _ bLo hd⟩

end Sys2Proof.Machine

/-! PROOFS. Which words an integer fits, by its bits (`42_shift.md` R93, R94), and the limbs of a
wide result. -/

namespace Sys2Proof.Machine

/-! ### A value fits when its bits above are all alike -/

/-- An unsigned value is wider than `k` bits exactly when some bit from bit `k` up is 1 (R93). -/
theorem two_pow_le_U_iff {n : Nat} (v : BitVec n) (k : Nat) :
    2 ^ k ≤ U v ↔ ∃ j, k ≤ j ∧ j < n ∧ v.getLsbD j = true := by
  constructor
  · intro h
    obtain ⟨j, hkj, hbit⟩ := Nat.exists_ge_and_testBit_of_ge_two_pow h
    exact ⟨j, hkj, BitVec.lt_of_getLsbD hbit, hbit⟩
  · rintro ⟨j, hkj, -, hbit⟩
    exact (Nat.pow_le_pow_right (by decide) hkj).trans (Nat.ge_two_pow_of_testBit hbit)

/-- Taking the low bits of a word wraps its signed value. -/
theorem setWidth_eq_bv {n m : Nat} (v : BitVec n) (h : m ≤ n) : v.setWidth m = bv m (S v) := by
  rw [← BitVec.toInt_inj, BitVec.toInt_setWidth, bv, BitVec.toInt_ofInt, S,
    BitVec.toInt_eq_toNat_bmod, Int.bmod_bmod_of_dvd (Nat.pow_dvd_pow 2 h)]

/-- A signed value fits `k + 1` bits exactly when it is the sign extension of its low `k + 1` bits
(R94). -/
theorem signed_fits_iff_signExtend {n : Nat} (v : BitVec n) {k : Nat} (hk : k < n) :
    (-2 ^ k ≤ S v ∧ S v < 2 ^ k) ↔ (v.setWidth (k + 1)).signExtend n = v := by
  rw [← BitVec.toInt_inj, BitVec.toInt_signExtend_of_le hk]
  constructor
  · rintro ⟨hge, hlt⟩
    rw [setWidth_eq_bv v hk]
    exact BitVec.toInt_ofInt_eq_self k.succ_pos hge hlt
  · intro h
    rw [S, ← h]
    exact ⟨BitVec.le_toInt _, BitVec.toInt_lt⟩

/-- "A two's-complement value fits N bits iff all its bits above bit N-1 equal bit N-1" (R94). -/
theorem signed_fits_iff {n : Nat} (v : BitVec n) {k : Nat} (hk : k < n) :
    (-2 ^ k ≤ S v ∧ S v < 2 ^ k) ↔ ∀ j, k < j → j < n → v.getLsbD j = v.getLsbD k := by
  have hbit (j : Nat) (hj : j < n) : ((v.setWidth (k + 1)).signExtend n).getLsbD j =
      if j < k + 1 then v.getLsbD j else v.getLsbD k := by
    rw [BitVec.getLsbD_signExtend, BitVec.msb_eq_getLsbD_last, BitVec.getLsbD_setWidth,
      BitVec.getLsbD_setWidth]
    by_cases h : j < k + 1 <;> simp [hj, h]
  rw [signed_fits_iff_signExtend v hk]
  constructor
  · intro h j hkj hj
    rw [← h, hbit j hj, hbit k hk, if_neg (by omega), if_pos k.lt_succ_self]
  · intro h
    refine BitVec.eq_of_getLsbD_eq fun j hj => ?_
    rw [hbit j hj]
    split
    · rfl
    · exact (h j (by omega) hj).symm

/-- A signed value of 256 bits does not fit a limb exactly when some bit of its high limb differs
from the top bit of its low limb. -/
theorem signed_overflow_iff_hiLimb (v : Double) : (S v < -2 ^ 127 ∨ 2 ^ 127 - 1 < S v) ↔
    ∃ i < 128, (hiLimb v).getLsbD i ≠ (loLimb v).getLsbD 127 := by
  have hfits := signed_fits_iff v (k := 127) (by decide)
  have hlimbs (i : Nat) (hi : i < 128) : (hiLimb v).getLsbD i = (loLimb v).getLsbD 127 ↔
      v.getLsbD (128 + i) = v.getLsbD 127 := by
    rw [getLsbD_hiLimb, getLsbD_loLimb, decide_eq_true hi]
    rfl
  constructor
  · intro hout
    by_contra! hcopies
    have hfit : -2 ^ 127 ≤ S v ∧ S v < 2 ^ 127 := hfits.mpr fun j hj hj' => by
      have h := (hlimbs (j - 128) (by omega)).mp (hcopies (j - 128) (by omega))
      rwa [Nat.add_sub_cancel' hj] at h
    omega
  · rintro ⟨i, hi, hne⟩
    by_contra! hin
    have hfit : -2 ^ 127 ≤ S v ∧ S v < 2 ^ 127 := by omega
    exact hne ((hlimbs i hi).mpr (hfits.mp hfit (128 + i) (by omega) (by omega)))

/-- Copies of its top bit above a limb keep its signed value (R94). -/
theorem S_double_copies (lo : Limb) : S (double (copies (lo.getLsbD 127)) lo) = S lo := by
  have hext : double (copies (lo.getLsbD 127)) lo = lo.signExtend 256 := by
    refine BitVec.eq_of_getLsbD_eq fun i hi => ?_
    rw [getLsbD_double, getLsbD_copies, BitVec.getLsbD_signExtend, BitVec.msb_eq_getLsbD_last]
    simp [hi, show i - 128 < 128 by omega]
  rw [hext, S, BitVec.toInt_signExtend_of_le (by decide)]

/-! ### Words and their limbs -/

theorem U_bv_natCast (n p : Nat) : U (bv n p) = p % 2 ^ n := by
  rw [U, bv, BitVec.ofInt_natCast, BitVec.toNat_ofNat]

theorem bv_U {n : Nat} (v : BitVec n) : bv n (U v) = v := by
  rw [bv, BitVec.ofInt_natCast, BitVec.ofNat_toNat, BitVec.setWidth_eq]

theorem hiLimb_bv (i : Int) : hiLimb (bv 256 i) = bv 128 (i / 2 ^ 128) := by
  have hwide := U_bv 256 i
  have hlimb := U_bv 128 (i / 2 ^ 128)
  have hhi : U (hiLimb (bv 256 i)) = U (bv 256 i) / 2 ^ 128 % 2 ^ 128 := U_extractLsb' _ 128 128
  apply BitVec.eq_of_toNat_eq
  change U (hiLimb (bv 256 i)) = U (bv 128 (i / 2 ^ 128))
  omega

end Sys2Proof.Machine

/-! PROOFS. The right shifts: the contract (`42_shift.md` R90, R91, R96) and the cross-limb form
(R92). -/

namespace Sys2Proof.Machine

/-! ### The shifted words -/

theorem U_ushiftRight {n : Nat} (v : BitVec n) (sh : Nat) : U (v >>> sh) = U v / 2 ^ sh := by
  rw [U, BitVec.toNat_ushiftRight, Nat.shiftRight_eq_div_pow]

theorem S_sshiftRight {n : Nat} (v : BitVec n) (sh : Nat) :
    S (v.sshiftRight sh) = S v / 2 ^ sh := by
  rw [S, BitVec.toInt_sshiftRight, Int.shiftRight_eq_div_pow, Nat.cast_pow, Nat.cast_ofNat]

/-- The floor of an unsigned quotient is the logical shift of the word (R90). -/
theorem bv_U_div {n : Nat} (v : BitVec n) (sh : Nat) : bv n (U v / 2 ^ sh : Nat) = v >>> sh := by
  rw [← U_ushiftRight, bv_U]

/-- The floor of a signed quotient is the arithmetic shift of the word (R91). -/
theorem bv_S_div {n : Nat} (v : BitVec n) (sh : Nat) : bv n (S v / 2 ^ sh) = v.sshiftRight sh := by
  rw [← S_sshiftRight, bv, BitVec.ofInt_toInt]

theorem shiftCountLegal_iff (sh : Nat) : shiftCountLegal sh = true ↔ sh ≤ 128 := decide_eq_true_iff

theorem exec_shru (aHi aLo : Limb) {sh : Nat} (s : State) (h : sh ≤ 128) :
    exec (.shru aHi aLo sh) s = .next { s with responses := s.responses ++
      [wideResponse (double aHi aLo >>> sh) false false] } := by
  rw [← bv_U_div]
  exact answerWhen_of_true ((shiftCountLegal_iff sh).mpr h) _ (.shru aHi aLo sh) s

theorem exec_shrs (aHi aLo : Limb) {sh : Nat} (s : State) (h : sh ≤ 128) :
    exec (.shrs aHi aLo sh) s = .next { s with responses := s.responses ++
      [wideResponse ((double aHi aLo).sshiftRight sh) false false] } := by
  rw [← bv_S_div, ← floorShiftInt_eq_ediv]
  exact answerWhen_of_true ((shiftCountLegal_iff sh).mpr h) _ (.shrs aHi aLo sh) s

/-! ### The contract (R90, R91) -/

/-- Settles O5: the row of `OP = 4`, and the value and the bits of the logical shift. -/
theorem shruShiftsRightLogically : Obligations.ShruShiftsRightLogically := by
  refine ⟨fun _ h => decode_of_row (.shru rfl) h, fun s aHi aLo sh hsh =>
    ⟨_, exec_shru aHi aLo s hsh, ?_, fun i _ => ?_, rfl, rfl, rfl⟩⟩ <;>
    rw [wideResponse_rHi, wideResponse_rLo, double_limbs]
  · exact U_ushiftRight _ sh
  · rw [BitVec.getLsbD_ushiftRight, Nat.add_comm]

/-- Settles O6: the row of `OP = 5`, and the value and the bits of the arithmetic shift. -/
theorem shrsShiftsRightArithmetically : Obligations.ShrsShiftsRightArithmetically := by
  refine ⟨fun _ h => decode_of_row (.shrs rfl) h, fun s aHi aLo sh hsh =>
    ⟨_, exec_shrs aHi aLo s hsh, ?_, fun i hi => ?_, rfl, rfl, rfl⟩⟩ <;>
    rw [wideResponse_rHi, wideResponse_rLo, double_limbs]
  · exact S_sshiftRight _ sh
  · rw [BitVec.getLsbD_sshiftRight, BitVec.msb_eq_getLsbD_last, decide_eq_false (not_le.mpr hi),
      Nat.add_comm]
    rfl

/-! ### The limbs of the shifted words -/

/-- `R_LO` is the same for both right shifts (R91): no copy of the sign comes down that far. -/
theorem loLimb_sshiftRight (v : Double) {sh : Nat} (h : sh ≤ 128) :
    loLimb (v.sshiftRight sh) = loLimb (v >>> sh) := by
  refine BitVec.eq_of_getLsbD_eq fun i hi => ?_
  rw [getLsbD_loLimb, getLsbD_loLimb, BitVec.getLsbD_sshiftRight, BitVec.getLsbD_ushiftRight,
    if_pos (by omega), decide_eq_false (by omega : ¬256 ≤ i)]
  rfl

/-- "Cross-limb carry-in from the high limb into the low limb's vacated high bits" (R92). -/
theorem loLimb_ushiftRight (hi lo : Limb) {sh : Nat} (h : sh ≤ 128) :
    loLimb (double hi lo >>> sh) =
      bv 128 (U lo / 2 ^ sh + U hi % 2 ^ sh * 2 ^ (128 - sh) : Nat) := by
  have hpow : 2 ^ 128 = 2 ^ (128 - sh) * 2 ^ sh := (Nat.pow_sub_mul_pow 2 h).symm
  have hvalue : U (double hi lo >>> sh) =
      U hi / 2 ^ sh * 2 ^ 128 + (U lo / 2 ^ sh + U hi % 2 ^ sh * 2 ^ (128 - sh)) := by
    calc U (double hi lo >>> sh)
      _ = (U lo + U hi * 2 ^ (128 - sh) * 2 ^ sh) / 2 ^ sh := by
        rw [U_ushiftRight, U_double, hpow, Nat.add_comm, Nat.mul_assoc]
      _ = U lo / 2 ^ sh + U hi * 2 ^ (128 - sh) := Nat.add_mul_div_right _ _ (by positivity)
      _ = U lo / 2 ^ sh + (U hi / 2 ^ sh * 2 ^ sh + U hi % 2 ^ sh) * 2 ^ (128 - sh) := by
        rw [Nat.div_add_mod']
      _ = U hi / 2 ^ sh * 2 ^ 128 + (U lo / 2 ^ sh + U hi % 2 ^ sh * 2 ^ (128 - sh)) := by
        rw [hpow]; ring
  apply BitVec.eq_of_toNat_eq
  change U (loLimb (double hi lo >>> sh)) = U (bv 128 _)
  rw [← U_mod_eq_loLimb, hvalue, Nat.mul_add_mod', U_bv_natCast]

theorem hiLimb_ushiftRight (hi lo : Limb) (sh : Nat) :
    hiLimb (double hi lo >>> sh) = hi >>> sh := by
  refine BitVec.eq_of_getLsbD_eq fun i h => ?_
  rw [getLsbD_hiLimb, BitVec.getLsbD_ushiftRight, BitVec.getLsbD_ushiftRight, getLsbD_double,
    if_neg (by omega), show sh + (128 + i) - 128 = sh + i by omega]
  simp [h]

theorem hiLimb_sshiftRight (hi lo : Limb) (sh : Nat) :
    hiLimb ((double hi lo).sshiftRight sh) = hi.sshiftRight sh := by
  refine BitVec.eq_of_getLsbD_eq fun i h => ?_
  have hmsb : (double hi lo).msb = hi.msb := by
    rw [BitVec.msb_eq_getLsbD_last, BitVec.msb_eq_getLsbD_last, getLsbD_double,
      if_neg (by decide)]
  rw [getLsbD_hiLimb, BitVec.getLsbD_sshiftRight, BitVec.getLsbD_sshiftRight, hmsb,
    decide_eq_true h, decide_eq_false (by omega : ¬256 ≤ 128 + i), decide_eq_false (not_le.mpr h)]
  by_cases hs : sh + i < 128
  · rw [if_pos hs, if_pos (by omega), getLsbD_double, if_neg (by omega),
      show sh + (128 + i) - 128 = sh + i by omega]
    rfl
  · rw [if_neg hs, if_neg (by omega)]
    rfl

/-! ### The cross-limb form (R92) -/

theorem shrLimbs_zero (signed : Bool) (hi lo : Limb) : shrLimbs signed hi lo 0 = (hi, lo) := rfl

theorem shrLimbs_between (signed : Bool) (hi lo : Limb) {sh : Nat} (h0 : sh ≠ 0) (h : sh < 128) :
    shrLimbs signed hi lo sh = (if signed then hi.sshiftRight sh else hi >>> sh,
      loLimb (double hi lo >>> sh)) := by
  rw [shrLimbs, if_neg h0, if_pos h, floorShiftInt_eq_ediv, bv_S_div, floorShift_eq_div, bv_U_div,
    floorShift_eq_div, loLimb_ushiftRight hi lo h.le]

theorem shrLimbs_limb (signed : Bool) (hi lo : Limb) :
    shrLimbs signed hi lo 128 = (if signed then copies (hi.getLsbD 127) else 0#128, hi) := rfl

theorem loLimb_ushiftRight_limb (hi lo : Limb) : loLimb (double hi lo >>> 128) = hi := by
  refine BitVec.eq_of_getLsbD_eq fun i h => ?_
  rw [getLsbD_loLimb, BitVec.getLsbD_ushiftRight, getLsbD_double, if_neg (by omega),
    Nat.add_sub_cancel_left, decide_eq_true h, Bool.true_and]

theorem sshiftRight_limb (hi : Limb) : hi.sshiftRight 128 = copies (hi.getLsbD 127) := by
  refine BitVec.eq_of_getLsbD_eq fun i h => ?_
  rw [BitVec.getLsbD_sshiftRight, getLsbD_copies, if_neg (by omega), BitVec.msb_eq_getLsbD_last,
    decide_eq_true h, decide_eq_false (not_le.mpr h)]
  rfl

/-- The three cases of R92 are one: the high limb shifted alone, and the low limb of the pair
shifted. -/
theorem shrLimbs_eq (signed : Bool) (hi lo : Limb) {sh : Nat} (h : sh ≤ 128) :
    shrLimbs signed hi lo sh = (if signed then hi.sshiftRight sh else hi >>> sh,
      loLimb (double hi lo >>> sh)) := by
  rcases Nat.eq_zero_or_pos sh with rfl | h0
  · rw [shrLimbs_zero, BitVec.sshiftRight_zero, BitVec.ushiftRight_zero, BitVec.ushiftRight_zero,
      loLimb_double, ite_self]
  rcases h.lt_or_eq with hlt | rfl
  · exact shrLimbs_between signed hi lo h0.ne' hlt
  · rw [shrLimbs_limb, loLimb_ushiftRight_limb, sshiftRight_limb,
      BitVec.ushiftRight_eq_zero (le_refl 128)]

/-- Settles O52: the limbs of the shifted words are those of R92. -/
theorem rightShiftLimbsMeetContract : Obligations.RightShiftLimbsMeetContract := by
  intro s aHi aLo sh hsh
  rw [exec_shru aHi aLo s hsh, exec_shrs aHi aLo s hsh, shrLimbs_eq _ _ _ hsh,
    shrLimbs_eq _ _ _ hsh, wideResponse, wideResponse, hiLimb_ushiftRight, hiLimb_sshiftRight,
    loLimb_sshiftRight _ hsh]
  exact ⟨rfl, rfl⟩

/-- Settles O17: the cases 0 and 128 of the cross-limb form. -/
theorem rightShiftBoundary : Obligations.RightShiftBoundary := by
  intro s aHi aLo
  obtain ⟨hU0, hS0⟩ := rightShiftLimbsMeetContract s aHi aLo 0 (Nat.zero_le 128)
  obtain ⟨hU128, hS128⟩ := rightShiftLimbsMeetContract s aHi aLo 128 le_rfl
  refine ⟨_, _, hU0, hS0, hU128, rfl, rfl, hS128, rfl, fun i hi => ?_⟩
  rw [shrLimbs_limb, if_pos rfl, getLsbD_copies, decide_eq_true hi, Bool.true_and]

end Sys2Proof.Machine

/-! PROOFS. The narrowing shifts: the contract (`42_shift.md` R93, R94, R96) and the cross-limb form
(R95). -/

namespace Sys2Proof.Machine

/-! ### The kept bits -/

theorem bv_two_pow (n sh : Nat) : bv n (2 ^ sh) = BitVec.twoPow n sh := by
  have hcast : (2 : Int) ^ sh = (2 ^ sh : Nat) := (Nat.cast_pow 2 sh).symm
  apply BitVec.eq_of_toNat_eq
  change U (bv n (2 ^ sh)) = _
  rw [hcast, U_bv_natCast, BitVec.toNat_twoPow]

/-- The pattern of a multiple by `2^s` is the pattern shifted left, for either reading of it. -/
theorem bv_mul_two_pow {n : Nat} {i : Int} {v : BitVec n} (h : bv n i = v) (sh : Nat) :
    bv n (i * 2 ^ sh) = v <<< sh := by
  rw [BitVec.shiftLeft_eq_mul_twoPow, ← bv_two_pow, ← h, bv, BitVec.ofInt_mul]

/-- The kept bits "sit at bits 255 to 128 of the shifted value" (R93). -/
theorem bv_window_U (v : Double) (sh : Nat) :
    bv 128 (U v * 2 ^ sh / 2 ^ 128 : Nat) = hiLimb (v <<< sh) := by
  rw [← bv_mul_two_pow (bv_U v), hiLimb_bv]
  norm_cast

/-- SHLNS keeps "the same bits SHLNU keeps" (R94). -/
theorem bv_window_S (v : Double) (sh : Nat) :
    bv 128 (S v * 2 ^ sh / 2 ^ 128) = hiLimb (v <<< sh) := by
  rw [← bv_mul_two_pow BitVec.ofInt_toInt, hiLimb_bv]

theorem getLsbD_kept (v : Double) (sh : Nat) {i : Nat} (h : i < 128) :
    (hiLimb (v <<< sh)).getLsbD i =
      (decide (sh ≤ i + 128) && v.getLsbD (i + 128 - sh)) := by
  rw [getLsbD_hiLimb, BitVec.getLsbD_shiftLeft, decide_eq_true h,
    decide_eq_true (by omega : 128 + i < 256), Nat.add_comm 128 i]
  simp only [← decide_not, not_lt, Bool.true_and]

theorem exec_shlnu (aHi aLo : Limb) (sh : Nat) (s : State) : exec (.shlnu aHi aLo sh) s =
    .next { s with responses := s.responses ++ [limbResponse 0#128 (hiLimb (double aHi aLo <<< sh))
      (narrowOverflowU (U (double aHi aLo) * 2 ^ sh / 2 ^ 128))] } := by
  rw [← bv_window_U]
  rfl

theorem exec_shlns (aHi aLo : Limb) (sh : Nat) (s : State) : exec (.shlns aHi aLo sh) s =
    .next { s with responses := s.responses ++ [limbResponse
      (copies ((hiLimb (double aHi aLo <<< sh)).getLsbD 127)) (hiLimb (double aHi aLo <<< sh))
      (narrowOverflowS (S (double aHi aLo) * 2 ^ sh / 2 ^ 128))] } := by
  rw [← bv_window_S, ← floorShiftInt_eq_ediv]
  rfl

/-! ### The overflow flags -/

theorem narrowOverflowU_iff (w : Nat) : narrowOverflowU w = true ↔ 2 ^ 128 ≤ w := decide_eq_true_iff

theorem narrowOverflowS_iff (w : Int) :
    narrowOverflowS w = true ↔ w < -2 ^ 127 ∨ 2 ^ 127 - 1 < w := decide_eq_true_iff

/-- "`OVF = 1` exactly when at least one discarded high bit is 1" (R93). -/
theorem narrowOverflowU_iff_discarded (v : Double) {sh : Nat} (h : sh ≤ 256) :
    narrowOverflowU (U v * 2 ^ sh / 2 ^ 128) = true ↔
      ∃ j, 256 - sh ≤ j ∧ j < 256 ∧ v.getLsbD j = true := by
  calc narrowOverflowU (U v * 2 ^ sh / 2 ^ 128) = true
    _ ↔ 2 ^ 128 ≤ U v * 2 ^ sh / 2 ^ 128 := narrowOverflowU_iff _
    _ ↔ 2 ^ (256 - sh) * 2 ^ sh ≤ U v * 2 ^ sh := by
      rw [Nat.le_div_iff_mul_le (by positivity), Nat.pow_sub_mul_pow 2 h]; rfl
    _ ↔ 2 ^ (256 - sh) ≤ U v := Nat.mul_le_mul_right_iff (by positivity)
    _ ↔ ∃ j, 256 - sh ≤ j ∧ j < 256 ∧ v.getLsbD j = true := two_pow_le_U_iff v (256 - sh)

/-- The signed window value fits a limb exactly when the operand fits its `256 - s` low bits. -/
theorem window_fits_iff (x : Int) {sh : Nat} (h : sh < 256) :
    (x * 2 ^ sh / 2 ^ 128 < -2 ^ 127 ∨ 2 ^ 127 - 1 < x * 2 ^ sh / 2 ^ 128) ↔
      ¬(-2 ^ (255 - sh) ≤ x ∧ x < 2 ^ (255 - sh)) := by
  have hpos : (0 : Int) < 2 ^ sh := by positivity
  have hpow : (2 : Int) ^ 255 = 2 ^ (255 - sh) * 2 ^ sh := (pow_sub_mul_pow 2 (by omega)).symm
  have hge : -2 ^ 255 ≤ x * 2 ^ sh ↔ -2 ^ (255 - sh) ≤ x := by
    rw [hpow, ← neg_mul, mul_le_mul_iff_left₀ hpos]
  have hlt : x * 2 ^ sh < 2 ^ 255 ↔ x < 2 ^ (255 - sh) := by
    rw [hpow, mul_lt_mul_iff_left₀ hpos]
  rw [← hge, ← hlt]
  omega

/-- "`OVF = 1` exactly when some discarded high bit differs from the top kept bit" (R94). -/
theorem narrowOverflowS_iff_discarded (v : Double) {sh : Nat} (h : sh < 256) :
    narrowOverflowS (S v * 2 ^ sh / 2 ^ 128) = true ↔
      ∃ j, 256 - sh ≤ j ∧ j < 256 ∧ v.getLsbD j ≠ (hiLimb (v <<< sh)).getLsbD 127 := by
  have hkept : (hiLimb (v <<< sh)).getLsbD 127 = v.getLsbD (255 - sh) := by
    rw [getLsbD_kept v sh (by decide), decide_eq_true (by omega), Bool.true_and]
  rw [narrowOverflowS_iff, window_fits_iff _ h, signed_fits_iff v (by omega), hkept]
  push Not
  exact exists_congr fun j => and_congr_left fun _ => by omega

/-! ### The contract (R93, R94) -/

/-- Settles O7: the row of `OP = 6`, the kept bits, and the two readings of the flag. -/
theorem shlnuKeepsTheWindow : Obligations.ShlnuKeepsTheWindow := by
  refine ⟨fun _ h => decode_of_row (.shlnu rfl) h, fun s aHi aLo sh hsh =>
    ⟨_, exec_shlnu aHi aLo sh s, ?_, fun i hi => getLsbD_kept _ sh hi, rfl, narrowOverflowU_iff _,
      narrowOverflowU_iff_discarded _ hsh.le, rfl, rfl⟩⟩
  rw [limbResponse_rLo, ← bv_window_U, U_bv_natCast]

/-- Settles O8: the row of `OP = 7`, the kept bits with copies of the top one above, and the two
readings of the flag. -/
theorem shlnsKeepsTheWindow : Obligations.ShlnsKeepsTheWindow := by
  refine ⟨fun _ h => decode_of_row (.shlns rfl) h, fun s aHi aLo sh hsh =>
    ⟨_, exec_shlns aHi aLo sh s, ?_, fun i hi => getLsbD_kept _ sh hi, fun i hi => ?_,
      narrowOverflowS_iff _, narrowOverflowS_iff_discarded _ hsh, fun hovf => ?_, rfl, rfl⟩⟩
  · rw [limbResponse_rLo, ← bv_window_S, U_bv]
  · rw [limbResponse_rHi, limbResponse_rLo, getLsbD_copies, decide_eq_true hi, Bool.true_and]
  · have hfits := mt (narrowOverflowS_iff _).mpr (Bool.eq_false_iff.mp hovf)
    rw [limbResponse_rHi, limbResponse_rLo, S_double_copies, ← bv_window_S]
    exact S_bv_limb (by omega) (by omega)

/-- Settles O19: a larger count makes the window value no smaller. -/
theorem shlnuOverflowIsMonotonic : Obligations.ShlnuOverflowIsMonotonic := by
  refine fun s aHi aLo sh sh' hle => ⟨_, _, exec_shlnu aHi aLo sh s, exec_shlnu aHi aLo sh' s, ?_⟩
  have hwindow :
      U (double aHi aLo) * 2 ^ sh / 2 ^ 128 ≤ U (double aHi aLo) * 2 ^ sh' / 2 ^ 128 := by
    gcongr
    decide
  rw [limbResponse_ovf, limbResponse_ovf, narrowOverflowU_iff, narrowOverflowU_iff]
  exact hwindow.trans'

/-! ### The narrowing shifts as right shifts (R96) -/

theorem kept_eq_loLimb_ushiftRight (v : Double) {sh : Nat} (h : sh ≤ 128) :
    hiLimb (v <<< sh) = loLimb (v >>> (128 - sh)) := by
  refine BitVec.eq_of_getLsbD_eq fun i hi => ?_
  rw [getLsbD_kept v sh hi, getLsbD_loLimb, BitVec.getLsbD_ushiftRight, decide_eq_true hi,
    decide_eq_true (by omega), show 128 - sh + i = i + 128 - sh by omega]

/-- Settles O18: the window of a count `s` up to 128 is the value shifted right by `128 - s`. -/
theorem narrowingShiftIsARightShift : Obligations.NarrowingShiftIsARightShift := by
  intro s aHi aLo sh hsh
  have hwindow (x : Int) : x * 2 ^ sh / 2 ^ 128 = x / 2 ^ (128 - sh) := by
    have h := window_of_rescale x (Nat.sub_le 128 sh)
    rwa [Nat.sub_sub_self hsh] at h
  have hright : 128 - sh ≤ 128 := Nat.sub_le 128 sh
  have hlo := kept_eq_loLimb_ushiftRight (double aHi aLo) hsh
  refine ⟨_, _, _, _, exec_shlnu aHi aLo sh s, exec_shru aHi aLo s hright, exec_shlns aHi aLo sh s,
    exec_shrs aHi aLo s hright, hlo, ?_, hlo.trans (loLimb_sshiftRight _ hright).symm, ?_⟩
  · have hU : U (double aHi aLo) * 2 ^ sh / 2 ^ 128 = U (double aHi aLo >>> (128 - sh)) := by
      rw [U_ushiftRight]
      exact_mod_cast hwindow (U (double aHi aLo))
    rw [limbResponse_ovf, hU, narrowOverflowU_iff, wideResponse_rHi, hiLimb_ne_zero_iff]
  · rw [limbResponse_ovf, hwindow, ← S_sshiftRight, narrowOverflowS_iff, wideResponse_rHi,
      wideResponse_rLo, signed_overflow_iff_hiLimb]

/-! ### The cross-limb form (R95) -/

theorem shlnLimbs_kept (hi lo : Limb) (sh : Nat) :
    (shlnLimbs hi lo sh).1 = hiLimb (double hi lo <<< sh) := by
  rw [shlnLimbs]
  split_ifs with h0 hlt heq
  · rw [h0, BitVec.shiftLeft_zero, hiLimb_double]
  · rw [kept_eq_loLimb_ushiftRight _ hlt.le, loLimb_ushiftRight hi lo (Nat.sub_le 128 sh),
      Nat.sub_sub_self hlt.le, Nat.add_comm, floorShift_eq_div]
  · rw [heq, kept_eq_loLimb_ushiftRight _ le_rfl, Nat.sub_self, BitVec.ushiftRight_zero,
      loLimb_double]
  · rw [Nat.cast_mul, Nat.cast_pow, Nat.cast_ofNat, bv_mul_two_pow (bv_U lo)]
    refine BitVec.eq_of_getLsbD_eq fun i hi => ?_
    rw [getLsbD_kept _ sh hi, getLsbD_double, if_pos (by omega), BitVec.getLsbD_shiftLeft,
      decide_eq_true hi, show i + 128 - sh = i - (sh - 128) by omega]
    simp only [← decide_not, not_lt, Bool.true_and, Nat.sub_le_iff_le_add]

/-- The `n` top bits of a pair of limbs, from bit 255 down: the bits a narrowing shift by `n`
discards (R93). -/
def discarded (v : Double) (n : Nat) : List Bool := (List.range n).map fun j => v.getLsbD (255 - j)

theorem any_discarded_iff (v : Double) {n : Nat} (h : n ≤ 256) (p : Bool → Bool) :
    (discarded v n).any p = true ↔ ∃ j, 256 - n ≤ j ∧ j < 256 ∧ p (v.getLsbD j) = true := by
  simp only [discarded, List.any_eq_true, List.mem_map, List.mem_range, exists_exists_and_eq_and]
  constructor
  · rintro ⟨j, hj, hp⟩
    exact ⟨255 - j, by omega, by omega, hp⟩
  · rintro ⟨j, hlow, hj, hp⟩
    exact ⟨255 - j, by omega, by rwa [show 255 - (255 - j) = j by omega]⟩

theorem topBits_hi (hi lo : Limb) {n : Nat} (h : n ≤ 128) :
    topBits hi n = discarded (double hi lo) n := by
  refine List.map_congr_left fun j hj => ?_
  have hj : j < n := List.mem_range.mp hj
  rw [getLsbD_double, if_neg (by omega), show 255 - j - 128 = 127 - j by omega]

theorem topBits_hi_append_lo (hi lo : Limb) {n : Nat} (h : n ≤ 128) :
    topBits hi 128 ++ topBits lo n = discarded (double hi lo) (128 + n) := by
  rw [topBits_hi hi lo le_rfl, discarded, discarded, List.range_add, List.map_append, List.map_map]
  congr 1
  refine List.map_congr_left fun j hj => ?_
  have hj : j < n := List.mem_range.mp hj
  rw [Function.comp_apply, getLsbD_double, if_pos (by omega),
    show 255 - (128 + j) = 127 - j by omega]

theorem shlnLimbs_discarded (hi lo : Limb) {sh : Nat} (h : sh < 256) :
    (shlnLimbs hi lo sh).2 = discarded (double hi lo) sh := by
  rw [shlnLimbs]
  split_ifs with h0 hlt heq
  · rw [h0]; rfl
  · exact topBits_hi hi lo hlt.le
  · rw [heq]; exact topBits_hi hi lo le_rfl
  · rw [topBits_hi_append_lo hi lo (by omega), Nat.add_sub_cancel' (by omega)]

/-- Settles O53: the limbs give the kept bits, and their list of discarded bits the flags. -/
theorem narrowingShiftLimbsMeetContract : Obligations.NarrowingShiftLimbsMeetContract := by
  refine fun s aHi aLo sh hsh => ⟨_, _, exec_shlnu aHi aLo sh s, exec_shlns aHi aLo sh s,
    (shlnLimbs_kept aHi aLo sh).symm, ?_, (shlnLimbs_kept aHi aLo sh).symm, ?_⟩
  · rw [limbResponse_ovf, shlnuLimbsOverflow, shlnLimbs_discarded _ _ hsh, Bool.eq_iff_iff,
      narrowOverflowU_iff_discarded _ hsh.le, any_discarded_iff _ hsh.le]
    rfl
  · rw [limbResponse_ovf, shlnsLimbsOverflow, shlnLimbs_discarded _ _ hsh, shlnLimbs_kept,
      Bool.eq_iff_iff, narrowOverflowS_iff_discarded _ hsh, any_discarded_iff _ hsh.le]
    simp only [bne_iff_ne]

end Sys2Proof.Machine

/-! PROOFS. ADD, SUB, NEG and SEXT: the contract (`43_add_sub_neg_sext.md` R100 to R103), the laws
between them (R105) and the limb-wise form (R104). -/

namespace Sys2Proof.Machine

/-! ### The result words

Reduced mod 2^256, the integers the meanings compute are the sum, the difference and the negation of
the operands as words. -/

theorem bv_U_add {n : Nat} (a b : BitVec n) : bv n (U a + U b) = a + b := by
  rw [bv, BitVec.ofInt_add, ← bv, ← bv, bv_U, bv_U]

theorem bv_U_sub {n : Nat} (a b : BitVec n) : bv n ((U a : Int) - U b) = a - b := by
  rw [Int.sub_eq_add_neg, bv, BitVec.ofInt_add, BitVec.ofInt_neg, ← bv, ← bv, bv_U, bv_U,
    ← BitVec.sub_eq_add_neg]

theorem U_sub {n : Nat} (a b : BitVec n) : (U (a - b) : Int) = ((U a : Int) - U b) % 2 ^ n := by
  rw [← bv_U_sub, U_bv]

theorem exec_add (aHi aLo bHi bLo : Limb) (s : State) : exec (.add aHi aLo bHi bLo) s =
    .next { s with responses := s.responses ++ [wideResponse (double aHi aLo + double bHi bLo)
      (addOverflow (double aHi aLo) (double bHi bLo))
      (addCarry (double aHi aLo) (double bHi bLo))] } := by
  rw [← bv_U_add]
  rfl

theorem exec_sub (aHi aLo bHi bLo : Limb) (s : State) : exec (.sub aHi aLo bHi bLo) s =
    .next { s with responses := s.responses ++ [wideResponse (double aHi aLo - double bHi bLo)
      (subOverflow (double aHi aLo) (double bHi bLo))
      (subBorrow (double aHi aLo) (double bHi bLo))] } := by
  rw [← bv_U_sub]
  rfl

theorem exec_neg (aHi aLo : Limb) (s : State) : exec (.neg aHi aLo) s =
    .next { s with responses := s.responses ++ [wideResponse (-double aHi aLo)
      (negOverflow (double aHi aLo)) (negBorrow (double aHi aLo))] } := by
  rw [← bv_two_pow_sub]
  rfl

theorem exec_sext (aLo : Limb) (s : State) : exec (.sext aLo) s = .next { s with
    responses := s.responses ++ [limbResponse (copies (aLo.getLsbD 127)) aLo false] } := rfl

/-! ### Signed wrapping -/

/-- `y` is the signed reading of the 256-bit pattern of `x`, where `x` is at most 2^256 from zero:
the exact value where that fits, else off by 2^256 toward the range (R105). -/
inductive Wraps (x y : Int) : Prop
  | exact (hge : -2 ^ 255 ≤ x) (hle : x ≤ 2 ^ 255 - 1) (hy : y = x)
  | below (hlt : x < -2 ^ 255) (hy : y = x + 2 ^ 256)
  | above (hgt : 2 ^ 255 - 1 < x) (hy : y = x - 2 ^ 256)

theorem Wraps.of_bmod {x : Int} (hge : -2 ^ 256 ≤ x) (hle : x ≤ 2 ^ 256) :
    Wraps x (x.bmod (2 ^ 256)) := by
  have hdef := Int.bmod_def x (2 ^ 256)
  by_cases hbelow : x < -2 ^ 255
  · exact .below hbelow (by omega)
  · by_cases habove : 2 ^ 255 - 1 < x
    · exact .above habove (by omega)
    · exact .exact (by omega) (by omega) (by omega)

/-- The flag of R100 and R101, "the signed value is not the signed reading of the result", says that
the value is out of range. -/
theorem Wraps.ne_iff {x y : Int} (h : Wraps x y) :
    x ≠ y ↔ x < -2 ^ 255 ∨ 2 ^ 255 - 1 < x := by
  cases h <;> omega

theorem Wraps.eq_add_of_ne {x y : Int} (h : Wraps x y) (hne : x ≠ y) :
    y = x + if x < 0 then 2 ^ 256 else -2 ^ 256 := by
  cases h with
  | exact _ _ hy => exact absurd hy.symm hne
  | below hlt hy => rw [hy, if_pos (by omega)]
  | above hgt hy => rw [hy, if_neg (by omega)]; rfl

theorem S_bounds (a : Double) : -2 ^ 255 ≤ S a ∧ S a < 2 ^ 255 :=
  ⟨BitVec.le_toInt a, BitVec.toInt_lt⟩

theorem wraps_add (a b : Double) : Wraps (S a + S b) (S (a + b)) := by
  have ha := S_bounds a
  have hb := S_bounds b
  have hword : S (a + b) = (S a + S b).bmod (2 ^ 256) := BitVec.toInt_add a b
  rw [hword]
  exact .of_bmod (by omega) (by omega)

theorem wraps_sub (a b : Double) : Wraps (S a - S b) (S (a - b)) := by
  have ha := S_bounds a
  have hb := S_bounds b
  have hword : S (a - b) = (S a - S b).bmod (2 ^ 256) := BitVec.toInt_sub
  rw [hword]
  exact .of_bmod (by omega) (by omega)

theorem wraps_neg (a : Double) : Wraps (-S a) (S (-a)) := by
  have ha := S_bounds a
  have hword : S (-a) = (-S a).bmod (2 ^ 256) := BitVec.toInt_neg
  rw [hword]
  exact .of_bmod (by omega) (by omega)

/-! ### The flags, by value -/

theorem addOverflow_iff_ne (a b : Double) : addOverflow a b = true ↔ S a + S b ≠ S (a + b) := by
  rw [addOverflow, bv_U_add, decide_eq_true_iff]

theorem subOverflow_iff_ne (a b : Double) : subOverflow a b = true ↔ S a - S b ≠ S (a - b) := by
  rw [subOverflow, bv_U_sub, decide_eq_true_iff]

theorem addOverflow_iff (a b : Double) :
    addOverflow a b = true ↔ S a + S b < -2 ^ 255 ∨ 2 ^ 255 - 1 < S a + S b :=
  (addOverflow_iff_ne a b).trans (wraps_add a b).ne_iff

theorem subOverflow_iff (a b : Double) :
    subOverflow a b = true ↔ S a - S b < -2 ^ 255 ∨ 2 ^ 255 - 1 < S a - S b :=
  (subOverflow_iff_ne a b).trans (wraps_sub a b).ne_iff

/-- `DSMIN` is the pattern of the most negative value (R102). -/
theorem negOverflow_iff (a : Double) : negOverflow a = true ↔ S a = -2 ^ 255 := by
  have hmin : S (double 0x80000000000000000000000000000000#128 0#128) = -2 ^ 255 := by decide
  rw [negOverflow, decide_eq_true_iff, ← BitVec.toInt_inj, ← hmin]

theorem addCarry_iff (a b : Double) : addCarry a b = true ↔ 2 ^ 256 ≤ U a + U b :=
  decide_eq_true_iff

theorem subBorrow_iff (a b : Double) : subBorrow a b = true ↔ U a < U b := decide_eq_true_iff

theorem negBorrow_iff (a : Double) : negBorrow a = true ↔ U a ≠ 0 := decide_eq_true_iff

/-! ### The overflow flags, by sign bits -/

theorem sign_hiLimb (v : Double) : (hiLimb v).getLsbD 127 = decide (S v < 0) := by
  rw [getLsbD_hiLimb]
  exact getLsbD_sign v

/-- `A[255] = B[255]` and `R[255] != A[255]` (R100): the wrapped sum has the wrong sign. -/
theorem addOverflow_iff_signs (a b : Double) : addOverflow a b = true ↔
    (hiLimb a).getLsbD 127 = (hiLimb b).getLsbD 127 ∧
      (hiLimb (a + b)).getLsbD 127 ≠ (hiLimb a).getLsbD 127 := by
  have ha := S_bounds a
  have hb := S_bounds b
  rw [addOverflow_iff, sign_hiLimb, sign_hiLimb, sign_hiLimb, Ne, decide_eq_decide,
    decide_eq_decide]
  cases wraps_add a b <;> omega

/-- `A[255] != B[255]` and `R[255] != A[255]` (R101). -/
theorem subOverflow_iff_signs (a b : Double) : subOverflow a b = true ↔
    (hiLimb a).getLsbD 127 ≠ (hiLimb b).getLsbD 127 ∧
      (hiLimb (a - b)).getLsbD 127 ≠ (hiLimb a).getLsbD 127 := by
  have ha := S_bounds a
  have hb := S_bounds b
  rw [subOverflow_iff, sign_hiLimb, sign_hiLimb, sign_hiLimb, Ne, Ne, decide_eq_decide,
    decide_eq_decide]
  cases wraps_sub a b <;> omega

/-! ### The contract (R100 to R103) -/

/-- Settles O9: the row of `OP = 8`, the word sum, and the readings of its flags. -/
theorem addWrapsAndFlags : Obligations.AddWrapsAndFlags := by
  refine ⟨fun _ h => decode_of_row .add h, fun s aHi aLo bHi bLo =>
    ⟨_, exec_add aHi aLo bHi bLo s, ?_, addCarry_iff _ _, addOverflow_iff _ _, ?_, rfl⟩⟩
  · rw [wideResponse_rHi, wideResponse_rLo, double_limbs]
    exact BitVec.toNat_add _ _
  · have hsigns := addOverflow_iff_signs (double aHi aLo) (double bHi bLo)
    rwa [hiLimb_double, hiLimb_double] at hsigns

/-- Settles O10: the row of `OP = 9`, the word difference, and the readings of its flags. -/
theorem subWrapsAndFlags : Obligations.SubWrapsAndFlags := by
  refine ⟨fun _ h => decode_of_row .sub h, fun s aHi aLo bHi bLo =>
    ⟨_, exec_sub aHi aLo bHi bLo s, ?_, subBorrow_iff _ _, subOverflow_iff _ _, ?_, rfl⟩⟩
  · rw [wideResponse_rHi, wideResponse_rLo, double_limbs, U_sub]
  · have hsigns := subOverflow_iff_signs (double aHi aLo) (double bHi bLo)
    rwa [hiLimb_double, hiLimb_double] at hsigns

/-- Settles O11: the row of `OP = 10`, the word negation, and the readings of its flags. -/
theorem negWrapsAndFlags : Obligations.NegWrapsAndFlags := by
  refine ⟨fun _ h => decode_of_row .neg h, fun s aHi aLo =>
    ⟨_, exec_neg aHi aLo s, ?_, ?_, negBorrow_iff _, negOverflow_iff _, rfl⟩⟩ <;>
    rw [wideResponse_rHi, wideResponse_rLo, double_limbs]
  · exact BitVec.toNat_neg _
  · exact BitVec.neg_eq_not_add _

/-- Settles O12: the row of `OP = 11`, and copies of the sign above the operand. -/
theorem sextExtendsTheSign : Obligations.SextExtendsTheSign := by
  refine ⟨fun _ h => decode_of_row .sext h, fun s aLo =>
    ⟨_, exec_sext aLo s, rfl, fun i hi => ?_, S_double_copies aLo, rfl, rfl, rfl⟩⟩
  rw [limbResponse_rHi, getLsbD_copies, decide_eq_true hi, Bool.true_and]

/-! ### The laws (R105) -/

theorem subOverflow_zero (a : Double) : subOverflow 0#256 a = negOverflow a := by
  have ha := S_bounds a
  have hzero : S 0#256 = 0 := rfl
  rw [Bool.eq_iff_iff, subOverflow_iff, negOverflow_iff, hzero]
  omega

theorem subBorrow_zero (a : Double) : subBorrow 0#256 a = negBorrow a := by
  rw [Bool.eq_iff_iff, subBorrow_iff, negBorrow_iff]
  exact Nat.pos_iff_ne_zero

/-- NEG is `SUB 0, A`, flags included. -/
theorem exec_sub_zero (aHi aLo : Limb) (s : State) :
    exec (.sub 0#128 0#128 aHi aLo) s = exec (.neg aHi aLo) s := by
  have hzero : double 0#128 0#128 = 0#256 := rfl
  rw [exec_sub, exec_neg, hzero, BitVec.zero_sub, subOverflow_zero, subBorrow_zero]

/-- The carry is the bit of the sum that 256 bits do not hold. -/
theorem U_add_carry (a b : Double) : U (a + b) + (addCarry a b).toNat * 2 ^ 256 = U a + U b := by
  have ha : U a < 2 ^ 256 := a.isLt
  have hb : U b < 2 ^ 256 := b.isLt
  have hword : U (a + b) = (U a + U b) % 2 ^ 256 := BitVec.toNat_add a b
  rw [hword, addCarry]
  by_cases hcarry : U a + U b ≥ 2 ^ 256
  · rw [decide_eq_true hcarry, Bool.toNat_true]
    omega
  · rw [decide_eq_false hcarry, Bool.toNat_false]
    omega

/-- The borrow is what 256 bits do not hold of the difference. -/
theorem U_sub_borrow (a b : Double) :
    (U (a - b) : Int) - ((subBorrow a b).toNat : Int) * 2 ^ 256 = (U a : Int) - U b := by
  have ha : U a < 2 ^ 256 := a.isLt
  have hb : U b < 2 ^ 256 := b.isLt
  rw [U_sub, subBorrow]
  by_cases hborrow : U a < U b
  · rw [decide_eq_true hborrow, Bool.toNat_true]
    omega
  · rw [decide_eq_false hborrow, Bool.toNat_false]
    omega

theorem S_add_of_not_overflow {a b : Double} (h : addOverflow a b = false) :
    S (a + b) = S a + S b := by
  have heq := mt (addOverflow_iff_ne a b).mpr (Bool.eq_false_iff.mp h)
  exact (not_not.mp heq).symm

theorem S_sub_of_not_overflow {a b : Double} (h : subOverflow a b = false) :
    S (a - b) = S a - S b := by
  have heq := mt (subOverflow_iff_ne a b).mpr (Bool.eq_false_iff.mp h)
  exact (not_not.mp heq).symm

theorem S_add_of_overflow {a b : Double} (h : addOverflow a b = true) :
    S (a + b) = S a + S b + if S a + S b < 0 then 2 ^ 256 else -2 ^ 256 :=
  (wraps_add a b).eq_add_of_ne ((addOverflow_iff_ne a b).mp h)

theorem S_sub_of_overflow {a b : Double} (h : subOverflow a b = true) :
    S (a - b) = S a - S b + if S a - S b < 0 then 2 ^ 256 else -2 ^ 256 :=
  (wraps_sub a b).eq_add_of_ne ((subOverflow_iff_ne a b).mp h)

theorem S_neg_of_not_overflow {a : Double} (h : negOverflow a = false) : S (-a) = -S a := by
  have hne := mt (negOverflow_iff a).mpr (Bool.eq_false_iff.mp h)
  have ha := S_bounds a
  cases wraps_neg a <;> omega

theorem S_neg_of_overflow {a : Double} (h : negOverflow a = true) : S (-a) = -S a - 2 ^ 256 := by
  have hmin := (negOverflow_iff a).mp h
  cases wraps_neg a <;> omega

/-- Settles O15: every law is one of the word, the carry or the signed reading of a result. -/
theorem addSubNegLaws : Obligations.AddSubNegLaws := by
  refine fun s aHi aLo bHi bLo => ⟨_, _, _, _, _, exec_add aHi aLo bHi bLo s,
    exec_sub aHi aLo bHi bLo s, exec_neg aHi aLo s, (exec_sub_zero aHi aLo s).trans (exec_neg ..),
    exec_neg bHi bLo s, exec_add aHi aLo _ _ s, ?_⟩
  simp only [wideResponse_rHi, wideResponse_rLo, wideResponse_ovf, wideResponse_carry, double_limbs,
    ← BitVec.sub_eq_add_neg]
  exact ⟨trivial, trivial, U_add_carry _ _, U_sub_borrow _ _, S_add_of_not_overflow,
    S_add_of_overflow, S_sub_of_not_overflow, S_sub_of_overflow, S_neg_of_not_overflow,
    S_neg_of_overflow⟩

/-! ### The limb-wise form (R104) -/

theorem bv_eq_bv {n : Nat} {i j : Int} (h : i % 2 ^ n = j % 2 ^ n) : bv n i = bv n j := by
  rw [← U_bv, ← U_bv] at h
  exact BitVec.eq_of_toNat_eq (Int.ofNat.inj h)

/-- The carry out of the low limbs is what the high limb of the sum needs. -/
theorem addLimbs_eq (aHi aLo bHi bLo : Limb) : addLimbs aHi aLo bHi bLo =
    (hiLimb (double aHi aLo + double bHi bLo), loLimb (double aHi aLo + double bHi bLo),
      addCarry (double aHi aLo) (double bHi bLo)) := by
  have haLo : U aLo < 2 ^ 128 := aLo.isLt
  have haHi : U aHi < 2 ^ 128 := aHi.isLt
  have hbLo : U bLo < 2 ^ 128 := bLo.isLt
  have hbHi : U bHi < 2 ^ 128 := bHi.isLt
  rw [← bv_U_add, hiLimb_bv, loLimb_bv, addLimbs, addCarry, U_double, U_double]
  refine Prod.ext (congrArg (bv 128) ?_) (Prod.ext (bv_eq_bv ?_) (decide_eq_decide.mpr ?_)) <;>
    omega

/-- The borrow out of the low limbs is what the high limb of the difference needs. -/
theorem subLimbs_eq (aHi aLo bHi bLo : Limb) : subLimbs aHi aLo bHi bLo =
    (hiLimb (double aHi aLo - double bHi bLo), loLimb (double aHi aLo - double bHi bLo),
      subBorrow (double aHi aLo) (double bHi bLo)) := by
  have haLo : U aLo < 2 ^ 128 := aLo.isLt
  have hbLo : U bLo < 2 ^ 128 := bLo.isLt
  rw [← bv_U_sub, hiLimb_bv, loLimb_bv, subLimbs, subBorrow, U_double, U_double]
  refine Prod.ext (congrArg (bv 128) ?_) (Prod.ext (bv_eq_bv ?_) (decide_eq_decide.mpr ?_))
  · split <;> omega
  · omega
  · split <;> omega

/-- Complementing the high limb takes one too many from it exactly when the low limb is zero. -/
theorem negLimbs_eq (aHi aLo : Limb) : negLimbs aHi aLo =
    (hiLimb (-double aHi aLo), loLimb (-double aHi aLo)) := by
  have haLo : U aLo < 2 ^ 128 := aLo.isLt
  rw [← bv_two_pow_sub, hiLimb_bv, loLimb_bv, negLimbs, U_double]
  refine Prod.ext (congrArg (bv 128) ?_) (bv_eq_bv ?_) <;> omega

/-- Settles O54: the limbs are those of the word sum, difference and negation. -/
theorem adderLimbsMeetContract : Obligations.AdderLimbsMeetContract := fun s aHi aLo bHi bLo =>
  ⟨_, _, _, exec_add aHi aLo bHi bLo s, exec_sub aHi aLo bHi bLo s, exec_neg aHi aLo s,
    (addLimbs_eq aHi aLo bHi bLo).symm, (subLimbs_eq aHi aLo bHi bLo).symm,
    (negLimbs_eq aHi aLo).symm⟩

end Sys2Proof.Machine

/-! PROOFS. What the flags leave to the consumer: fetching dropped low bits and the direction of a
signed overflow (`44_overflow_flags.md` R114, R115). -/

namespace Sys2Proof.Machine

/-! ### The dropped low bits (R114) -/

/-- Shifted left by `256 - f`, only the `f` low bits of the operand reach the kept bits, and they
end at the top. -/
theorem U_kept_lowBits (v : Double) {f : Nat} (h : f ≤ 128) :
    U (hiLimb (v <<< (256 - f))) = U v % 2 ^ f * 2 ^ (128 - f) := by
  have hcount : 256 - f = 128 + (128 - f) := Nat.add_sub_assoc h 128
  have hwindow : U v * 2 ^ (256 - f) / 2 ^ 128 = U v * 2 ^ (128 - f) := by
    rw [hcount]
    exact_mod_cast window_of_shiftLeft (U v) (128 - f)
  calc U (hiLimb (v <<< (256 - f)))
    _ = U v * 2 ^ (256 - f) / 2 ^ 128 % 2 ^ 128 := by rw [← bv_window_U, U_bv_natCast]
    _ = U v * 2 ^ (128 - f) % (2 ^ f * 2 ^ (128 - f)) := by rw [hwindow, pow_mul_pow_sub 2 h]
    _ = U v % 2 ^ f * 2 ^ (128 - f) := Nat.mul_mod_mul_right ..

/-- A right shift by `f` loses nothing exactly when the fetched low bits are zero. -/
theorem kept_lowBits_eq_zero_iff (v : Double) {f : Nat} (h : f ≤ 128) :
    hiLimb (v <<< (256 - f)) = 0#128 ↔ U (v >>> f) * 2 ^ f = U v := by
  calc hiLimb (v <<< (256 - f)) = 0#128
    _ ↔ U (hiLimb (v <<< (256 - f))) = 0 := BitVec.toNat_inj.symm
    _ ↔ U v % 2 ^ f = 0 := by
      rw [U_kept_lowBits v h, Nat.mul_eq_zero, or_iff_left (Nat.two_pow_pos _).ne']
    _ ↔ U (v >>> f) * 2 ^ f = U v := by
      rw [U_ushiftRight, ← Nat.dvd_iff_mod_eq_zero, Nat.dvd_iff_div_mul_eq]

/-- Settles O20: the bits SHLNU keeps of a count `256 - f` are those SHRU drops of a count `f`. -/
theorem droppedLowBitsCanBeFetched : Obligations.DroppedLowBitsCanBeFetched := by
  refine fun s aHi aLo f _ hf => ⟨_, _, exec_shlnu aHi aLo (256 - f) s, exec_shru aHi aLo s hf,
    U_kept_lowBits _ hf, ?_⟩
  rw [limbResponse_rLo, wideResponse_rHi, wideResponse_rLo, double_limbs]
  exact kept_lowBits_eq_zero_iff _ hf

/-! ### The direction of a signed overflow (R115) -/

theorem sign_of_hi (hi lo : Limb) : hi.getLsbD 127 = decide (S (double hi lo) < 0) := by
  rw [← sign_hiLimb, hiLimb_double]

/-- A value that can leave its range only below for a negative operand and only above for any other
leaves it on the side that the operand's top bit tells. -/
theorem overflow_direction (hi lo : Limb) {x least greatest : Int}
    (hneg : S (double hi lo) < 0 → x ≤ greatest) (hnonneg : 0 ≤ S (double hi lo) → least ≤ x)
    (hovf : x < least ∨ greatest < x) :
    if hi.getLsbD 127 then x < least else greatest < x := by
  rw [sign_of_hi hi lo]
  by_cases hsign : S (double hi lo) < 0
  · rw [if_pos (decide_eq_true hsign)]
    exact hovf.resolve_right (hneg hsign).not_gt
  · rw [if_neg (Bool.eq_false_iff.mp (decide_eq_false hsign))]
    exact hovf.resolve_left (hnonneg (not_lt.mp hsign)).not_gt

/-- The window of SHLNS is on the operand's side of zero, for every count. -/
theorem window_nonpos {x : Int} (h : x ≤ 0) (sh : Nat) : x * 2 ^ sh / 2 ^ 128 ≤ 0 := by
  have hshifted : x * 2 ^ sh ≤ 0 := mul_nonpos_of_nonpos_of_nonneg h (by positivity)
  omega

theorem window_nonneg {x : Int} (h : 0 ≤ x) (sh : Nat) : 0 ≤ x * 2 ^ sh / 2 ^ 128 := by
  positivity

/-- Settles O21: neither a shift nor operand `B` takes the value past the end of the range that is
opposite to the sign of `A`. -/
theorem overflowDirectionIsTheSignOfA : Obligations.OverflowDirectionIsTheSignOfA := by
  intro s aHi aLo bHi bLo sh
  have hb := S_bounds (double bHi bLo)
  refine ⟨_, _, _, exec_shlns aHi aLo sh s, exec_add aHi aLo bHi bLo s, exec_sub aHi aLo bHi bLo s,
    fun hovf => ?_, fun hovf => ?_, fun hovf => ?_⟩
  · have hout := (narrowOverflowS_iff _).mp hovf
    exact overflow_direction aHi aLo
      (fun hneg => (window_nonpos hneg.le sh).trans (by decide))
      (fun hnonneg => (window_nonneg hnonneg sh).trans' (by decide)) hout
  · have hout := (addOverflow_iff _ _).mp hovf
    exact overflow_direction aHi aLo (by omega) (by omega) hout
  · have hout := (subOverflow_iff _ _).mp hovf
    exact overflow_direction aHi aLo (by omega) (by omega) hout

end Sys2Proof.Machine

/-! PROOFS. The exceptions (`60_exceptions.md`): the preconditions (R121), what a request with a false
one gets (R122), the debug-only assertion (R123) and the illegal request (R124). -/

namespace Sys2Proof.Machine

/-! ### The preconditions in the spec's own words (R121) -/

theorem violation_divu_eq_none_iff_fits (aHi aLo bLo : Limb) :
    violation (.divu aHi aLo bLo) = none ↔ U bLo ≠ 0 ∧ U aHi < U bLo := by
  rw [violation_divu_eq_none_iff, Bool.and_eq_true, divisorNotZero_iff, quotientFitsU_iff]

theorem violation_divs_eq_none_iff_fits (aHi aLo bLo : Limb) :
    violation (.divs aHi aLo bLo) = none ↔ U bLo ≠ 0 ∧
      -2 ^ 127 ≤ (S (double aHi aLo)).tdiv (S bLo) ∧
      (S (double aHi aLo)).tdiv (S bLo) ≤ 2 ^ 127 - 1 := by
  rw [violation_divs_eq_none_iff, Bool.and_eq_true, divisorNotZero_iff, quotientFitsS_iff]

theorem violation_shru_eq_none_iff_le (aHi aLo : Limb) (sh : Nat) :
    violation (.shru aHi aLo sh) = none ↔ sh ≤ 128 :=
  (violation_shru_eq_none_iff aHi aLo sh).trans (shiftCountLegal_iff sh)

theorem violation_shrs_eq_none_iff_le (aHi aLo : Limb) (sh : Nat) :
    violation (.shrs aHi aLo sh) = none ↔ sh ≤ 128 :=
  (violation_shrs_eq_none_iff aHi aLo sh).trans (shiftCountLegal_iff sh)

/-- Only the divides and the right shifts have a precondition. -/
theorem violation_eq_none_of_other {i : Instr}
    (h : mnemonic i ∉ ["DIVU", "DIVS", "SHRU", "SHRS"]) : violation i = none := by
  cases i with
  | divu | divs | shru | shrs => exact absurd (by simp [mnemonic]) h
  | mulu | muls | shlnu | shlns | add | sub | neg | sext => rfl

/-- Settles O38: an equivalence for each of the four operations, and none for the others. -/
theorem preconditionsAreComplete : Obligations.PreconditionsAreComplete :=
  ⟨violation_divu_eq_none_iff_fits, violation_divs_eq_none_iff_fits, violation_shru_eq_none_iff_le,
    violation_shrs_eq_none_iff_le, fun _ => violation_eq_none_of_other⟩

/-! ### A false precondition (R122) -/

/-- The divisor zero, read signed or unsigned, is one pattern. -/
theorem U_eq_zero_of_S_eq_zero {n : Nat} {v : BitVec n} (h : S v = 0) : U v = 0 := by
  have hv : v = 0#n := BitVec.eq_of_toInt_eq (h.trans BitVec.toInt_zero.symm)
  rw [hv, U, BitVec.toNat_zero]

theorem exec_of_violation {i : Instr} (s : State) (h : violation i ≠ none) : ∃ r : Response,
    exec i s = .next { s with responses := s.responses ++ [r], freeIndex := s.freeIndex + 1 } ∧
    r.ill = false := by
  obtain ⟨hnone, -⟩ | ⟨-, hexec⟩ := exec_cases i s
  · exact absurd hnone h
  · exact ⟨freeResponse i s.freeIndex, hexec, freeResponse_ill i s.freeIndex⟩

/-- Settles O13: in each clause the instruction breaks a precondition, and is answered as any that
does. -/
theorem undefinedRequestsAreStillAnswered : Obligations.UndefinedRequestsAreStillAnswered := by
  refine ⟨fun s aHi aLo bLo h => exec_of_violation s fun hnone => ?_,
    fun s aHi aLo bLo h => exec_of_violation s fun hnone => ?_,
    fun s aHi aLo sh h => exec_of_violation s fun hnone => ?_,
    fun s aHi aLo sh h => exec_of_violation s fun hnone => ?_⟩
  · obtain ⟨hd, hq⟩ := (violation_divu_eq_none_iff_fits aHi aLo bLo).mp hnone
    exact h.elim hd hq.not_ge
  · obtain ⟨hd, hge, hle⟩ := (violation_divs_eq_none_iff_fits aHi aLo bLo).mp hnone
    obtain hzero | hlow | hhigh := h
    · exact hd (U_eq_zero_of_S_eq_zero hzero)
    · exact hge.not_gt hlow
    · exact hle.not_gt hhigh
  · exact h.not_ge ((violation_shru_eq_none_iff_le aHi aLo sh).mp hnone)
  · exact h.not_ge ((violation_shrs_eq_none_iff_le aHi aLo sh).mp hnone)

/-! ### The illegal request (R124) -/

/-- Settles O27: a control word past the opcode map does not decode, and no instruction sets
`ILL`. -/
theorem illegalRequestResponse : Obligations.IllegalRequestResponse := by
  refine fun s req rest hr hq => ⟨fun hillegal => ?_, fun hrsv hop => ?_⟩
  · obtain ⟨e, hd⟩ := exists_decode_error (req := req) (by omega)
    exact step_of_decode_error hr hq hd
  · obtain ⟨i, hrow⟩ := OpcodeMap.exists_of_lt req hop
    have hd : decode req = .ok i := decode_of_row hrow (by omega)
    obtain ⟨r, n, hexec, hill, -⟩ := whichInstructionsSetFlags i { s with requests := rest }
    exact ⟨_, r, (step_of_decode_ok hr hq hd).trans hexec, rfl, hill⟩

/-! ### The debug-only assertion (R123) -/

theorem nextViolation_ready {s : State} {req : Request} {rest : List Request}
    (hr : s.inReset = false) (hq : s.requests = req :: rest) :
    nextViolation s = requestViolation req := by
  rw [nextViolation, takeRequest_ready s req rest hr hq]

theorem nextViolation_idle {s : State} (h : s.inReset = true ∨ s.requests = []) :
    nextViolation s = none := by
  rw [nextViolation, takeRequest_idle s h]

/-- A defined request in front breaks nothing, in reset or out of it. -/
theorem nextViolation_of_defined {s : State} {req : Request} {rest : List Request}
    (hq : s.requests = req :: rest) (h : Defined req) : nextViolation s = none := by
  cases hr : s.inReset with
  | true => exact nextViolation_idle (.inl hr)
  | false => exact (nextViolation_ready hr hq).trans h

theorem Safe.nextViolation_eq_none {s : State} (h : Safe s) : nextViolation s = none := by
  cases hq : s.requests with
  | nil => exact nextViolation_idle (.inr hq)
  | cons req rest => exact nextViolation_of_defined hq (h req (hq ▸ List.mem_cons_self))

theorem stepChecked_eq_step {s : State} (h : nextViolation s = none) : stepChecked s = step s := by
  rw [stepChecked, h]

theorem stepChecked_eq_fault {s : State} {f : Fault} (h : nextViolation s = some f) :
    stepChecked s = .fault f := by
  rw [stepChecked, h]

/-- A step answers a next state, with no request in flight that was not there before. -/
theorem step_next_requests (s : State) :
    ∃ t, step s = .next t ∧ ∀ req ∈ t.requests, req ∈ s.requests := by
  cases hr : s.inReset with
  | true => exact ⟨s, step_idle s (.inl hr), fun _ hmem => hmem⟩
  | false =>
    cases hq : s.requests with
    | nil => exact ⟨s, step_idle s (.inr hq), fun _ hmem => hq ▸ hmem⟩
    | cons req rest =>
      obtain ⟨r, n, -, hstep⟩ := step_answers hr hq
      exact ⟨_, hstep, fun _ hmem => List.mem_cons_of_mem req hmem⟩

/-- The block's own step never faults, so a fault of the checked step is the assertion's. -/
theorem stepChecked_eq_fault_iff (s : State) (f : Fault) :
    stepChecked s = .fault f ↔ nextViolation s = some f := by
  refine ⟨fun hfault => ?_, stepChecked_eq_fault⟩
  cases hv : nextViolation s with
  | none =>
    obtain ⟨t, hstep, -⟩ := step_next_requests s
    cases hfault.symm.trans ((stepChecked_eq_step hv).trans hstep)
  | some g =>
    cases hfault.symm.trans (stepChecked_eq_fault hv)
    rfl

/-- The duties of the consumer speak of the requests in flight, and a step adds none. -/
theorem Safe.of_step {s t : State} (h : Safe s) (hstep : step s = .next t) : Safe t := by
  obtain ⟨u, hnext, hsub⟩ := step_next_requests s
  cases hstep.symm.trans hnext
  exact fun req hmem => h req (hsub req hmem)

/-- Settles O37: the assertion faults by what the request taken next breaks; with nothing to take, or
a defined request in front, that is nothing. -/
theorem assertionOnlyWatches : Obligations.AssertionOnlyWatches := by
  refine ⟨fun s req rest f hr hq => ?_, fun s => stepChecked_eq_step,
    fun s hidle => stepChecked_eq_step (nextViolation_idle hidle),
    fun s req rest hq hdefined => stepChecked_eq_step (nextViolation_of_defined hq hdefined),
    fun s hsafe => ⟨stepChecked_eq_step hsafe.nextViolation_eq_none, fun t => hsafe.of_step⟩⟩
  rw [stepChecked_eq_fault_iff, nextViolation_ready hr hq]

end Sys2Proof.Machine

/-! PROOFS. Reset and hazards (`70_reset_and_hazards.md`): every request taken is answered once (R138),
reset drops what is in flight (R135, R142), and the invariant that reset meets and that every step and
everything the outside does keep (R124, R135). -/

namespace Sys2Proof.Machine

/-! ### What a step answers (R138, `20_memory.md` R46) -/

theorem illMeansIllegal_illegalResponse : IllMeansIllegal illegalResponse :=
  fun _ => ⟨rfl, rfl, rfl, rfl⟩

theorem illMeansIllegal_of_ill_eq_false {r : Response} (h : r.ill = false) : IllMeansIllegal r :=
  fun hill => absurd (h.symm.trans hill) Bool.false_ne_true

/-- The request taken gets one response, with `ILL = 1` only as R124 has it; the counter of free values
moves only on a false precondition. -/
theorem step_answers_once {s : State} {req : Request} {rest : List Request}
    (hr : s.inReset = false) (hq : s.requests = req :: rest) :
    ∃ (r : Response) (n : Nat),
      step s = .next { s with
        requests := rest, responses := s.responses ++ [r], freeIndex := n } ∧
      IllMeansIllegal r ∧ (Defined req → n = s.freeIndex) := by
  cases hd : decode req with
  | error e =>
    exact ⟨illegalResponse, s.freeIndex, step_of_decode_error hr hq hd,
      illMeansIllegal_illegalResponse, fun _ => rfl⟩
  | ok i =>
    obtain ⟨r, n, hexec, hill, hflags⟩ := whichInstructionsSetFlags i { s with requests := rest }
    refine ⟨r, n, (step_of_decode_ok hr hq hd).trans hexec, illMeansIllegal_of_ill_eq_false hill,
      fun hdefined => ?_⟩
    obtain ⟨hcounter, -⟩ := hflags ((defined_iff_of_decode_ok hd).mp hdefined)
    exact hcounter

/-- Everything a step can do: idle, or, out of reset, shorten the queue and answer once. -/
theorem step_cases {s t : State} (h : step s = .next t) :
    t = s ∨ ∃ (rest : List Request) (r : Response) (n : Nat),
      s.inReset = false ∧ IllMeansIllegal r ∧
      t = { s with requests := rest, responses := s.responses ++ [r], freeIndex := n } := by
  by_cases hidle : s.inReset = true ∨ s.requests = []
  · cases h.symm.trans (step_idle s hidle)
    exact .inl rfl
  · obtain ⟨hreset, hnone⟩ := not_or.mp hidle
    have hr : s.inReset = false := Bool.eq_false_iff.mpr hreset
    obtain ⟨req, rest, hq⟩ := List.exists_cons_of_ne_nil hnone
    obtain ⟨r, n, hstep, hill, -⟩ := step_answers_once hr hq
    cases h.symm.trans hstep
    exact .inr ⟨rest, r, n, hr, hill, rfl⟩

/-- Settles O24: a step always answers a next state, and the one that takes a request answers it
once. -/
theorem everyRequestIsAnsweredOnce : Obligations.EveryRequestIsAnsweredOnce := by
  refine ⟨fun s => ?_, fun s req rest hr hq => ?_⟩
  · obtain ⟨t, hstep, -⟩ := step_next_requests s
    exact ⟨t, hstep⟩
  · obtain ⟨r, n, hstep, -, hcounter⟩ := step_answers_once hr hq
    exact ⟨r, n, hstep, hcounter⟩

/-! ### Reset (R135, R142; `10_state.md` R33) -/

/-- Settles O33: a machine in reset refuses the request and idles; once released it takes the request
next, as a fresh machine does, and a defined request has one answer everywhere. -/
theorem resetDropsRequestsInFlight : Obligations.ResetDropsRequestsInFlight := by
  intro s req
  refine ⟨present_in_reset req _ (assertReset_inReset s),
    step_idle _ (.inl (assertReset_inReset s)), releaseReset_inReset _,
    (releaseReset_requests _).trans (assertReset_requests s),
    (releaseReset_responses _).trans (assertReset_responses s), fun hdefined => ?_⟩
  obtain ⟨r, hanswers⟩ := exists_answersEverywhere hdefined
  exact ⟨r, hanswers (present req (releaseReset (assertReset s))) [] rfl rfl, hanswers.fresh⟩

/-- Settles O34: the fields of the reset state, in which a step finds no request. -/
theorem resetLeavesNothingPending : Obligations.ResetLeavesNothingPending :=
  ⟨rfl, rfl, rfl, step_idle State.reset (.inr rfl)⟩

/-! ### The invariant (R124, R135) -/

/-- Settles O35: reset is released, and nothing has been answered. -/
theorem resetMeetsTheInvariant : Obligations.ResetMeetsTheInvariant :=
  ⟨fun _ => rfl, List.forall_mem_nil _⟩

theorem Inv.of_step {s t : State} (h : Inv s) (hstep : step s = .next t) : Inv t := by
  obtain rfl | ⟨rest, r, n, hr, hill, rfl⟩ := step_cases hstep
  · exact h
  · exact ⟨fun hreset => absurd hreset (Bool.eq_false_iff.mp hr),
      List.forall_mem_append.mpr ⟨h.illMeansIllegal, List.forall_mem_singleton.mpr hill⟩⟩

theorem Inv.present {s : State} (h : Inv s) (req : Request) : Inv (present req s) := by
  cases hr : s.inReset with
  | true => rwa [present_in_reset req s hr]
  | false =>
    rw [present_ready req s hr]
    exact ⟨fun hreset => absurd hreset (Bool.eq_false_iff.mp hr), h.illMeansIllegal⟩

theorem Inv.assertReset {s : State} (h : Inv s) : Inv (assertReset s) :=
  ⟨fun _ => assertReset_requests s, h.illMeansIllegal⟩

theorem Inv.releaseReset {s : State} (h : Inv s) : Inv (releaseReset s) :=
  ⟨fun hreset => absurd hreset (Bool.eq_false_iff.mp (releaseReset_inReset s)), h.illMeansIllegal⟩

/-- Settles O36, action by action: only a step issues a response, and only `assertReset` enters
reset. -/
theorem invariantIsKept : Obligations.InvariantIsKept :=
  fun _ h => ⟨fun _ => h.of_step, h.present, h.assertReset, h.releaseReset⟩

/-! ### A placed table word (R143, `30_encoding.md` R54) -/

theorem decode_tableRequest {nbits w : Nat} {i : Instr} (h : decodeTableWord nbits w = some i) :
    decode (tableRequest nbits w) = .ok i := by
  unfold decodeTableWord at h
  split at h
  next j hd => rw [hd, Option.some.inj h]
  next => cases h

/-- Settles O26: the placed request is in front of the queue and decodes to the instruction. -/
theorem placedWordRunsNext : Obligations.PlacedWordRunsNext := fun s nbits w _ h =>
  step_of_decode_ok (s := s.withFetchWord nbits w) rfl rfl (decode_tableRequest h)

end Sys2Proof.Machine
